-- ==== Sys2Proof/Word.lean ====
section
/-!
DEFINITION. The widths of 00_scope.md R6 and R7, each a named constant, and the word types made of them.
Every value, mask, register and check takes its width from here. The other parameters of R6 and R7 are
in Config.lean. All values are unsigned and bit 0 is the least significant (R10).
-/

namespace Sys2Proof

/-! ### Widths (00_scope.md R6, fixed by the source; R7, the spec's decisions) -/

/-- `W_DATA`: the data bus, GPR, ACC, SUM, a memory word (R6). -/
@[simp] abbrev Config.wData : Nat := 12

/-- `W_OPC`: the opcode field and OPR (R6). -/
@[simp] abbrev Config.wOpc : Nat := 4

/-- `OPC_LSB`: the lowest bit of the opcode field, so the width of the operand field below it (R6). -/
@[simp] abbrev Config.opcodeLsb : Nat := 8

/-- `W_FLG` (R6). -/
@[simp] abbrev Config.wFlg : Nat := 2

/-- `W_SLOT`: the opcode is shifted left by this in the index (R6). -/
@[simp] abbrev Config.slotWidth : Nat := 3

/-- `W_PC` (R7, D1). -/
@[simp] abbrev Config.wPc : Nat := 8

/-- `W_MAR` (R7, D2). -/
@[simp] abbrev Config.wMar : Nat := 8

/-- `W_STEP` (R7, D3). -/
@[simp] abbrev Config.wStep : Nat := 4

/-- `W_CW` (R7, D4). -/
@[simp] abbrev Config.wCw : Nat := 24

/-- The width of the control-store index: opcode over slot (30_encoding.md R86). -/
@[simp] abbrev Config.wIndex : Nat := Config.wOpc + Config.slotWidth

/-! ### Word types -/

/-- The bus, GPR, ACC, SUM, a memory word, an instruction word (R6, 30_encoding.md R84). -/
abbrev Word := BitVec Config.wData

/-- An address in memory: what MAR holds (R7, 20_memory.md R60). -/
abbrev Addr := BitVec Config.wMar

/-- What PC holds (R7, 10_state.md R23). -/
abbrev PcValue := BitVec Config.wPc

/-- The operand field of an instruction word (30_encoding.md R84). -/
abbrev Operand := BitVec Config.opcodeLsb

/-- A control word, one bit per control line (R7, 30_encoding.md R81). -/
abbrev ControlWord := BitVec Config.wCw

/-- The control-store index (30_encoding.md R86). -/
abbrev RowIndex := BitVec Config.wIndex

/-- The opcode field and OPR (R6). -/
abbrev Opcode := BitVec Config.wOpc

/-- The slot field of the index (R6, R86). -/
abbrev Slot := BitVec Config.slotWidth

/-- The step counter (R7). -/
abbrev StepCount := BitVec Config.wStep

/-- The flag register, F in bit 0 and Z in bit 1 (R6). -/
abbrev FlagBits := BitVec Config.wFlg

end Sys2Proof
end

