-- ==== Sys2Proof/Config.lean ====
section
/-!
DEFINITION. What is fixed for one machine: the numeric parameters of 00_scope.md R6 and R7 other than
the widths, which are in Word.lean, the configuration type of R8 (masks, lines, microcode table, image), and the free values.
The reference values of the configuration are in Machine/Reference.lean.
-/

namespace Sys2Proof

/-- `MEM_SIZE` = 2^`W_MAR`: words of memory (00_scope.md R7, 20_memory.md R60). -/
abbrev Config.memSize : Nat := 2 ^ Config.wMar

/-- `N_UCODE`: rows of the microcode table (R7, 10_state.md R33). -/
abbrev Config.nUcode : Nat := 128

/-- `STEP_MAX`: the last step value that selects a row, `N_FETCH` and the slots the slot field can count
(R7, D9). -/
abbrev Config.stepMax : StepCount := 10

/-- `N_FETCH`: the fetch steps, and so the first execute step (R6). -/
abbrev Config.nFetch : StepCount := 3

/-- The last fetch step: `N_FETCH` - 1 (R6). -/
abbrev Config.lastFetchStep : StepCount := 2

/-- `HALT_BIT`: OR-ed into the index when OPR holds the halt encoding (R7, 45_sequencer.md R195). No
definition supposes which bit it is. -/
abbrev Config.haltBit : Nat := 4

/-- What of `HALT_BIT` lies in the slot field of the index. -/
abbrev Config.haltBitInSlot : Slot := BitVec.ofNat Config.slotWidth Config.haltBit

/-- `HALT_OPCODE`: the reserved halt encoding (R6, 30_encoding.md R88). -/
abbrev Config.haltOpcode : Opcode := 0

/-- An increment-enable mask, or the sentinel `ALWAYS`, which is no bit pattern (41_register_ops.md
R133, D26). -/
inductive IncMask where
  | always
  | lines (mask : ControlWord)
  deriving DecidableEq, Repr

/-- The three enable masks of one register (10_state.md R21). -/
structure RegMasks where
  output : ControlWord
  input : ControlWord
  increment : IncMask
  deriving DecidableEq, Repr

/-- The masks and lines of 00_scope.md R8. -/
structure Layout where
  pc : RegMasks
  gpr : RegMasks
  acc : RegMasks
  mar : RegMasks
  flg : RegMasks
  opr : RegMasks
  step : RegMasks
  /-- `MEM_OUT`. -/
  memOut : ControlWord
  /-- `MEM_IN`. -/
  memIn : ControlWord
  /-- `L_A2G`, accumulator to GPR. -/
  a2g : ControlWord
  /-- `L_ADD`, commit the sum. -/
  add : ControlWord
  /-- `L_CMA`, complement the accumulator. -/
  cma : ControlWord
  /-- `L_CMF`, complement F. -/
  cmf : ControlWord
  /-- `L_CLA`, clear the accumulator. -/
  cla : ControlWord
  /-- `L_CLF`, clear F. -/
  clf : ControlWord
  /-- `L_ROL`, rotate left through F. -/
  rol : ControlWord
  /-- `L_ROR`, rotate right through F. -/
  ror : ControlWord
  /-- `L_AOUT`, the inert sum-output line: no component reads it (42_alu_ops.md R162). -/
  aout : ControlWord
  /-- `L_IPC`, increment PC. -/
  ipc : ControlWord
  /-- `L_IPC_F0`, increment PC if F is zero. -/
  ipcF0 : ControlWord
  /-- `L_IPC_Z1`, increment PC if Z is set. -/
  ipcZ1 : ControlWord
  /-- `L_CLR`, clear the step counter. -/
  clr : ControlWord
  /-- `L_HLT`, halt. -/
  hlt : ControlWord
  /-- `CW_SWAP`, compared for equality. -/
  swap : ControlWord
  /-- `CW_EXTRACT`, compared for equality. -/
  extract : ControlWord
  deriving DecidableEq, Repr

/-- The configuration `cfg` of 00_scope.md R8. The rows of the table and the words of the image are
plain numbers, so that a number too wide for its place can be written down and refused (`WF_TABLE`, R9). -/
structure Config where
  ucode : List Nat
  image : List Nat
  layout : Layout
  deriving DecidableEq, Repr

/-- FREE VALUE `any12()` (00_scope.md R11, 40_clock_phases.md R117): what is on the bus in the n-th
pulse that nothing drives. Nothing is known of it (log entry 4). -/
opaque Config.busDraw : Nat → Word

/-- FREE VALUE: what SUM holds after the host's `reset()` (70_reset_and_hazards.md R281: "BUS, SUM
unspecified"). Nothing is known of it (log entry 5). -/
opaque Config.sumDraw : Nat → Word

end Sys2Proof
end

