-- ==== Sys2Proof/Machine/Line.lean ====
section
/-!
DEFINITION. The 24 control lines of the reference layout, bit by bit (46_reference_microprogram.md
R221), and the three whole words of R223 and 30_encoding.md R83.
-/

namespace Sys2Proof.Machine

def lineTPcMar : ControlWord := 0x000001
def lineTMGpr : ControlWord := 0x000002
def lineTGprMar : ControlWord := 0x000004
def lineTGprM : ControlWord := 0x000008
def lineTGprPc : ControlWord := 0x000010
def lineIpc : ControlWord := 0x000020
def lineIgpr : ControlWord := 0x000040
def lineIacc : ControlWord := 0x000080
def lineA2g : ControlWord := 0x000100
def lineAdd : ControlWord := 0x000200
def lineCma : ControlWord := 0x000400
def lineCmf : ControlWord := 0x000800
def lineCla : ControlWord := 0x001000
def lineClf : ControlWord := 0x002000
def lineRol : ControlWord := 0x004000
def lineRor : ControlWord := 0x008000
def lineAOut : ControlWord := 0x010000
def lineIpcF0 : ControlWord := 0x020000
def lineIpcZ1 : ControlWord := 0x040000
def lineClrSc : ControlWord := 0x080000
def lineHalt : ControlWord := 0x100000
def lineXPc2g : ControlWord := 0x200000
def lineXG2pc : ControlWord := 0x400000
def lineXG2opr : ControlWord := 0x800000

/-- `CW_SWAP`: "the two lines `X_PC2G | X_G2PC`, bits 21 and 22" (44_bus_router_ops.md R181). -/
def wordSwap : ControlWord := lineXPc2g ||| lineXG2pc

/-- `CW_EXTRACT`: "the single line `X_G2OPR`" (R182). -/
def wordExtract : ControlWord := lineXG2opr

/-- "The value zero is the no-op control word" (30_encoding.md R83). -/
def wordNop : ControlWord := 0x000000

end Sys2Proof.Machine
end

