-- ==== Sys2Proof/Machine/Reference.lean ====
section
/-!
DEFINITION. The reference configuration of 46_reference_microprogram.md: the masks (R222), the
remaining constants (R223) and the 128 rows of the microcode table (R224). Only the image is open.
-/

namespace Sys2Proof.Machine

/-- R222 and R223. -/
def referenceLayout : Layout where
  pc := { output := lineTPcMar, input := lineTGprPc, increment := .lines lineIpc }
  gpr := { output := lineTGprMar ||| lineTGprM ||| lineTGprPc, input := lineTMGpr
           increment := .lines lineIgpr }
  acc := { output := 0, input := 0, increment := .lines lineIacc }
  mar := { output := 0, input := lineTPcMar ||| lineTGprMar, increment := .lines 0 }
  flg := { output := 0, input := 0, increment := .lines 0 }
  opr := { output := 0, input := 0, increment := .lines 0 }
  step := { output := 0, input := 0, increment := .always }
  memOut := lineTMGpr
  memIn := lineTGprM
  a2g := lineA2g
  add := lineAdd
  cma := lineCma
  cmf := lineCmf
  cla := lineCla
  clf := lineClf
  rol := lineRol
  ror := lineRor
  aout := lineAOut
  ipc := lineIpc
  ipcF0 := lineIpcF0
  ipcZ1 := lineIpcZ1
  clr := lineClrSc
  hlt := lineHalt
  swap := wordSwap
  extract := wordExtract

/-- Rows 0 to 63 of R224: the fetch rows, the halt window (row 4), and opcodes 1 to 7. -/
def referenceRowsLow : List Nat :=
  [0x000001, 0x000022, 0x800000, 0, 0x100000, 0, 0, 0] ++                       -- fetch; 0 HLT
  [0x000004, 0x000002, 0x000200, 0x080000, 0, 0, 0, 0] ++                       -- 1 ADD
  [0x000004, 0x000002, 0x000004, 0x000002, 0x000200, 0x080000, 0, 0] ++         -- 2 ADDI
  [0x000004, 0x000100, 0x000008, 0x080000, 0, 0, 0, 0] ++                       -- 3 STA
  [0x000010, 0x080000, 0, 0, 0, 0, 0, 0] ++                                     -- 4 JMP
  [0x000004, 0x000002, 0x000010, 0x080000, 0, 0, 0, 0] ++                       -- 5 JMPI
  [0x600000, 0x000001, 0x000028, 0x080000, 0, 0, 0, 0] ++                       -- 6 CSR
  [0x000004, 0x000002, 0x000040, 0x000008, 0x040000, 0x080000, 0, 0]            -- 7 ISZ

/-- Rows 64 to 127 of R224: opcodes 8 to 15. -/
def referenceRowsHigh : List Nat :=
  [0x001000, 0x080000, 0, 0, 0, 0, 0, 0] ++                                     -- 8 CRA
  [0x000400, 0x080000, 0, 0, 0, 0, 0, 0] ++                                     -- 9 CTA
  [0x000080, 0x080000, 0, 0, 0, 0, 0, 0] ++                                     -- 10 ITA
  [0x002000, 0x080000, 0, 0, 0, 0, 0, 0] ++                                     -- 11 CRF
  [0x000800, 0x080000, 0, 0, 0, 0, 0, 0] ++                                     -- 12 CTF
  [0x020000, 0x080000, 0, 0, 0, 0, 0, 0] ++                                     -- 13 SFZ
  [0x008000, 0x080000, 0, 0, 0, 0, 0, 0] ++                                     -- 14 ROR
  [0x004000, 0x080000, 0, 0, 0, 0, 0, 0]                                        -- 15 ROL

/-- The reference configuration with a given program image (R224, 00_scope.md R8). -/
def referenceConfig (image : List Nat) : Config where
  ucode := referenceRowsLow ++ referenceRowsHigh
  image := image
  layout := referenceLayout

end Sys2Proof.Machine
end

