-- ==== Sys2Proof/Machine/State.lean ====
section
/-!
DEFINITION. The state of the machine: every element of 10_state.md R20, the configuration as a
component that no step changes, and one counter of the model's own. Plain data throughout.
-/

namespace Sys2Proof.Machine

/-- The words of memory that are not 0, by rising address: cells of the machine's only addressable
unit, the 12-bit word (20_memory.md R60, R63; log entry 6). An address that is not listed reads as 0 (R67). -/
abbrev Memory := List (Nat × Word)

structure State where
  /-- Program counter, 10_state.md R23. -/
  pc : PcValue
  /-- General-purpose register, R24. -/
  gpr : Word
  /-- Accumulator, R25. -/
  acc : Word
  /-- Memory-address register, R26. -/
  mar : Addr
  /-- Flag register, F in bit 0 and Z in bit 1, R27. -/
  flg : FlagBits
  /-- Operation register, R28. -/
  opr : Opcode
  /-- Step counter, R29. -/
  step : StepCount
  /-- The effective control word of the last pulse, R30. -/
  cw : ControlWord
  /-- Halt status, R31. -/
  halted : Bool
  /-- The words of memory, R32. -/
  mem : Memory
  /-- Data bus, R34. -/
  bus : Word
  /-- The ALU's precomputed sum, R35. -/
  sum : Word
  /-- The configuration, 00_scope.md R8: injected at construction, changed by no pulse (log entry 1). -/
  cfg : Config
  /-- The model's own: how many free bus values have been taken (log entry 4). -/
  draws : Nat
  deriving DecidableEq, Repr

/-- Why a pulse has no successor. -/
inductive Fault where
  /-- `stuck(WindowOverrun)`: a rising edge found STEP above 10 (45_sequencer.md R196). Raised by
  `IX_OVERRUN` and so by `step`. Safe: the spec gives the pulse no behaviour. -/
  | windowOverrun
  deriving DecidableEq, Repr

/-- Why the model gives no meaning. -/
inductive Refusal where
  /-- An instruction that has no meaning yet, by its mnemonic. Raised by no arm of this model. Safe. -/
  | notModelled (mnemonic : String)
  /-- `refuse(WF_TABLE)` (00_scope.md R9): raised by construction and by `step` on a configuration whose
  table or image fails the check, and by a pulse that needs a row the table lacks. Safe. -/
  | wfTable
  /-- `refuse(WF_ONE_DRIVER)` (R9, 40_clock_phases.md R118): raised by construction and by `step` on a
  configuration that can enable two bus drivers, and by a pulse whose word does. Safe. -/
  | wfOneDriver
  /-- `refuse(WF_ONE_ALU_OP)` (R9, 42_alu_ops.md R153): raised by construction and by `step` on a
  configuration that can request two ALU operations, and by a pulse whose word does. Safe. -/
  | wfOneAluOp
  /-- `refuse(ResetWhenHalted)` (70_reset_and_hazards.md R282): raised by the host's `reset()` on a
  halted machine. Safe. -/
  | resetWhenHalted
  deriving DecidableEq, Repr

/-- The machine right after construction with the reference configuration and an empty image
(70_reset_and_hazards.md R280, 10_state.md R38; log entry 7). BUS and SUM, which the spec leaves
unspecified, are 0 here (log entry 5, DESIGN CHOICE); `draws` is 0 (log entry 4, DESIGN CHOICE). -/
def State.reset : State where
  pc := 0
  gpr := 0
  acc := 0
  mar := 0
  flg := 0
  opr := 0
  step := 0
  cw := 0
  halted := false
  mem := []
  bus := 0
  sum := 0
  cfg := referenceConfig []
  draws := 0

end Sys2Proof.Machine
end

