-- ==== Sys2Proof/Machine/Operands.lean ====
section
/-!
DEFINITION. How values are read and written: the mask test, the generic register with its masking
and increment, the seven registers by name, and the fields of the instruction word.
-/

namespace Sys2Proof.Machine

/-- `a ∩ b`: the control word has at least one bit in common with the mask (00_scope.md R10,
30_encoding.md R82). -/
def intersects (a b : ControlWord) : Bool := (a &&& b) != 0

/-! ### The generic register (10_state.md R21, R22, 41_register_ops.md R132, R134) -/

/-- A write to an n-bit register keeps the low n bits of any word (R22). -/
def registerWrite (n v : Nat) : BitVec n := BitVec.ofNat n v

/-- The increment of an n-bit register wraps at the top of its range (R132). -/
def registerIncrement {n : Nat} (v : BitVec n) : BitVec n := v + 1

/-- `reset()` of an n-bit register "sets value to 0" (R134 (c)). -/
def registerReset (n : Nat) : BitVec n := 0

/-! ### The seven registers (00_scope.md R2) -/

inductive RegName where
  | pc | gpr | acc | mar | flg | opr | step
  deriving DecidableEq, Repr

/-- The order in which the registers act within a phase (40_clock_phases.md R113). -/
def registerOrder : List RegName := [.pc, .gpr, .acc, .mar, .flg, .opr, .step]

/-- `W_r` (00_scope.md R6, R7). -/
def registerWidth : RegName → Nat
  | .pc => Config.wPc
  | .gpr => Config.wData
  | .acc => Config.wData
  | .mar => Config.wMar
  | .flg => Config.wFlg
  | .opr => Config.wOpc
  | .step => Config.wStep

/-- `OUT[r]`, `IN[r]` and `INC[r]` (00_scope.md R8). -/
def masksOf (l : Layout) : RegName → RegMasks
  | .pc => l.pc
  | .gpr => l.gpr
  | .acc => l.acc
  | .mar => l.mar
  | .flg => l.flg
  | .opr => l.opr
  | .step => l.step

/-- The value a register drives, zero-extended to the bus (40_clock_phases.md R116). -/
def State.readReg (s : State) : RegName → Word
  | .pc => s.pc.setWidth Config.wData
  | .gpr => s.gpr
  | .acc => s.acc
  | .mar => s.mar.setWidth Config.wData
  | .flg => s.flg.setWidth Config.wData
  | .opr => s.opr.setWidth Config.wData
  | .step => s.step.setWidth Config.wData

/-- `r <- v`: every write keeps the low bits that fit the register (10_state.md R22). -/
def State.writeReg (s : State) (r : RegName) (v : Word) : State :=
  match r with
  | .pc => { s with pc := registerWrite Config.wPc v.toNat }
  | .gpr => { s with gpr := registerWrite Config.wData v.toNat }
  | .acc => { s with acc := registerWrite Config.wData v.toNat }
  | .mar => { s with mar := registerWrite Config.wMar v.toNat }
  | .flg => { s with flg := registerWrite Config.wFlg v.toNat }
  | .opr => { s with opr := registerWrite Config.wOpc v.toNat }
  | .step => { s with step := registerWrite Config.wStep v.toNat }

/-- `r <- (r + 1) & mask(W_r)` (41_register_ops.md R132). -/
def State.incrementReg (s : State) (r : RegName) : State :=
  match r with
  | .pc => { s with pc := registerIncrement s.pc }
  | .gpr => { s with gpr := registerIncrement s.gpr }
  | .acc => { s with acc := registerIncrement s.acc }
  | .mar => { s with mar := registerIncrement s.mar }
  | .flg => { s with flg := registerIncrement s.flg }
  | .opr => { s with opr := registerIncrement s.opr }
  | .step => { s with step := registerIncrement s.step }

/-- Is the register's increment enabled in this control word (R132), or is it the sentinel (R133)? -/
def incrementEnabled (cw : ControlWord) : IncMask → Bool
  | .always => true
  | .lines m => intersects cw m

/-! ### The instruction word (30_encoding.md R84, R85) -/

/-- Bits 11:8. -/
def opcodeField (w : Word) : Opcode := w.extractLsb' Config.opcodeLsb Config.wOpc

/-- Bits 7:0. -/
def operandField (w : Word) : Operand := w.setWidth Config.opcodeLsb

/-- `(opcode << 8) | A` (46_reference_microprogram.md R242). -/
def instructionWord (opcode : Opcode) (a : Operand) : Word :=
  opcode.setWidth Config.wData <<< Config.opcodeLsb ||| a.setWidth Config.wData

/-! ### The control-store index (30_encoding.md R86, 45_sequencer.md R195) -/

/-- A slot without the halt-bit: what of it still tells rows of the halt window apart. -/
def slotBesideHaltBit (slot : Slot) : Slot := slot &&& ~~~Config.haltBitInSlot

end Sys2Proof.Machine
end

