-- ==== Sys2Proof/Syntax.lean ====
section
/-!
DEFINITION. The rows of spec/opcode_table.json, one constructor each: the control lines and
combinations of the control word (format CW), the classes of the control-store index (format IX) and
the instruction words of the reference set (format IW). 30_encoding.md R80, R95.
-/

namespace Sys2Proof

/-- One row of the opcode table. An operand is the 8-bit field below the opcode (30_encoding.md R84, R85); the
instructions that ignore theirs still carry the eight bits (log entry 15). -/
inductive Instr where
  -- CW: lines decoded by mask intersection (46_reference_microprogram.md R221, bits 0 to 20)
  | tPcMar
  | tMGpr
  | tGprMar
  | tGprM
  | tGprPc
  | ipc
  | igpr
  | iacc
  | aA2g
  | aAdd
  | aCma
  | aCmf
  | aCla
  | aClf
  | aRol
  | aRor
  | aOut
  | ipcF0
  | ipcZ1
  | clrSc
  | halt
  -- CW: whole words decoded by equality (R223, 30_encoding.md R83)
  | swap
  | extract
  | nopWord
  -- IX: classes of the control-store index (30_encoding.md R86)
  | ixFetch (step : BitVec 2)
  | ixExec (opcode : Opcode) (slot : Slot)
  | ixExecHalt (slot : Slot)
  | ixOverrun
  -- IW: instruction words, opcodes 0 to 15 (46_reference_microprogram.md R226 to R241)
  | hlt (a : Operand)
  | add (a : Operand)
  | addi (a : Operand)
  | sta (a : Operand)
  | jmp (a : Operand)
  | jmpi (a : Operand)
  | csr (a : Operand)
  | isz (a : Operand)
  | cra (a : Operand)
  | cta (a : Operand)
  | ita (a : Operand)
  | crf (a : Operand)
  | ctf (a : Operand)
  | sfz (a : Operand)
  | ror (a : Operand)
  | rol (a : Operand)
  deriving DecidableEq, Repr

end Sys2Proof
end

