-- ==== Sys2Proof/WellFormed.lean ====
section
/-!
DEFINITION. Which terms of `Instr` the hardware can produce. The checks of a configuration
(00_scope.md R9) are in Machine/Admission.lean.
-/

namespace Sys2Proof

/-- A fetch index is 0, 1 or 2: "index 3 matches the pattern but is never produced" (opcode_table.json,
IX_FETCH; 30_encoding.md R87). An execute index of this class has an opcode other than the halt
encoding (R86). A slot of the halt window is written without the halt-bit, which the index has in any case
(45_sequencer.md R195). Every other term is one the hardware can produce. -/
def Instr.wf : Instr → Bool
  | .ixFetch step => step != 3
  | .ixExec opcode _ => opcode != Config.haltOpcode
  | .ixExecHalt slot => slot &&& Config.haltBitInSlot == 0
  | _ => true

end Sys2Proof
end

