-- ==== Sys2Proof/Decode.lean ====
section
/-!
DEFINITION. The decoder and the encoder of the three formats of 30_encoding.md R80: the control word
(CW), the control-store index (IX) and the instruction word (IW). Decoding is total; what stands for
no single row of the opcode table is rejected by name.
-/

namespace Sys2Proof

/-- A word of one of the three formats. -/
inductive Encoded where
  | cw (w : ControlWord)
  | ix (i : RowIndex)
  | iw (w : Word)
  deriving DecidableEq, Repr

/-- Why a word is no single row of the table. -/
inductive DecodeError where
  /-- The control word is not the word of one row: it asserts several lines, or half of the swap. The
  pulse runs it all the same, line by line (30_encoding.md R81, R89). -/
  | noSingleRow
  /-- An index below the opcode windows that is no fetch row and lacks the halt-bit, which is index 3: no
  step and opcode produce it (R87). -/
  | unreachableRow
  deriving DecidableEq, Repr

/-- A CW row of the table: asserted when `w & mask = pattern` (30_encoding.md R95; for a line `mask` and
`pattern` are its one bit, for a whole word `mask` is all ones). -/
structure ControlRow where
  mask : ControlWord
  pattern : ControlWord
  instr : Instr
  deriving DecidableEq, Repr

/-- The row of a line decoded by intersection. -/
def lineRow (bit : ControlWord) (i : Instr) : ControlRow := { mask := bit, pattern := bit, instr := i }

/-- The row of a word decoded by equality. -/
def wordRow (w : ControlWord) (i : Instr) : ControlRow := { mask := 0xFFFFFF, pattern := w, instr := i }

/-- The 24 CW rows of the table (46_reference_microprogram.md R221, R223, 30_encoding.md R83). -/
def controlTable : List ControlRow :=
  [lineRow 0x000001 .tPcMar, lineRow 0x000002 .tMGpr, lineRow 0x000004 .tGprMar,
   lineRow 0x000008 .tGprM, lineRow 0x000010 .tGprPc, lineRow 0x000020 .ipc,
   lineRow 0x000040 .igpr, lineRow 0x000080 .iacc] ++
  [lineRow 0x000100 .aA2g, lineRow 0x000200 .aAdd, lineRow 0x000400 .aCma, lineRow 0x000800 .aCmf,
   lineRow 0x001000 .aCla, lineRow 0x002000 .aClf, lineRow 0x004000 .aRol, lineRow 0x008000 .aRor] ++
  [lineRow 0x010000 .aOut, lineRow 0x020000 .ipcF0, lineRow 0x040000 .ipcZ1,
   lineRow 0x080000 .clrSc, lineRow 0x100000 .halt,
   wordRow 0x600000 .swap, wordRow 0x800000 .extract, wordRow 0x000000 .nopWord]

/-- Every row a control word asserts, in the order of the table: the meaning of a composite word is
that of all of them in one pulse (30_encoding.md R81). -/
def assertedRows (w : ControlWord) : List Instr :=
  (controlTable.filter fun r => w &&& r.mask == r.pattern).map (·.instr)

/-- The row whose word this is. -/
def decodeControlWord (w : ControlWord) : Except DecodeError Instr :=
  match controlTable.find? (fun r => w == r.pattern) with
  | some r => .ok r.instr
  | none => .error .noSingleRow

/-- The class and operands of an index (30_encoding.md R86, R87): rows 0 to 2 are the fetch rows, `8k` to
`8k + 7` the window of opcode k, and below those windows the rows with the halt-bit (4 to 7) are the halt
window. -/
def decodeIndex (i : RowIndex) : Except DecodeError Instr :=
  let opcode : Opcode := i.extractLsb' Config.slotWidth Config.wOpc
  let slot : Slot := i.setWidth Config.slotWidth
  if i ≤ Config.lastFetchStep.setWidth Config.wIndex then .ok (.ixFetch (i.setWidth 2))
  else if opcode ≠ Config.haltOpcode then .ok (.ixExec opcode slot)
  else if slot &&& Config.haltBitInSlot = Config.haltBitInSlot then
    .ok (.ixExecHalt (Machine.slotBesideHaltBit slot))
  else .error .unreachableRow

/-- The instruction of each opcode, 0 to 15 (46_reference_microprogram.md R242). -/
def opcodeTable : List (Operand → Instr) :=
  [.hlt, .add, .addi, .sta, .jmp, .jmpi, .csr, .isz, .cra, .cta, .ita, .crf, .ctf, .sfz, .ror, .rol]

/-- Every 12-bit word is an instruction word (30_encoding.md R84). -/
def decodeInstructionWord (w : Word) : Instr :=
  (opcodeTable.getD (Machine.opcodeField w).toNat .hlt) (Machine.operandField w)

/-- The decoder. -/
def decode : Encoded → Except DecodeError Instr
  | .cw w => decodeControlWord w
  | .ix i => decodeIndex i
  | .iw w => .ok (decodeInstructionWord w)

/-- The encoder: the word of an instruction in its format. `IX_OVERRUN` "produces no index"
(30_encoding.md R95), so it has none. -/
def encode : Instr → Option Encoded
  | .tPcMar => some (.cw 0x000001)
  | .tMGpr => some (.cw 0x000002)
  | .tGprMar => some (.cw 0x000004)
  | .tGprM => some (.cw 0x000008)
  | .tGprPc => some (.cw 0x000010)
  | .ipc => some (.cw 0x000020)
  | .igpr => some (.cw 0x000040)
  | .iacc => some (.cw 0x000080)
  | .aA2g => some (.cw 0x000100)
  | .aAdd => some (.cw 0x000200)
  | .aCma => some (.cw 0x000400)
  | .aCmf => some (.cw 0x000800)
  | .aCla => some (.cw 0x001000)
  | .aClf => some (.cw 0x002000)
  | .aRol => some (.cw 0x004000)
  | .aRor => some (.cw 0x008000)
  | .aOut => some (.cw 0x010000)
  | .ipcF0 => some (.cw 0x020000)
  | .ipcZ1 => some (.cw 0x040000)
  | .clrSc => some (.cw 0x080000)
  | .halt => some (.cw 0x100000)
  | .swap => some (.cw 0x600000)
  | .extract => some (.cw 0x800000)
  | .nopWord => some (.cw 0x000000)
  | .ixFetch step => some (.ix (step.setWidth Config.wIndex))
  | .ixExec opcode slot => some (.ix (opcode.setWidth Config.wIndex <<< Config.slotWidth ||| slot.setWidth Config.wIndex))
  | .ixExecHalt slot => some (.ix (BitVec.ofNat Config.wIndex Config.haltBit ||| slot.setWidth Config.wIndex))
  | .ixOverrun => none
  | .hlt a => some (.iw (Machine.instructionWord 0 a))
  | .add a => some (.iw (Machine.instructionWord 1 a))
  | .addi a => some (.iw (Machine.instructionWord 2 a))
  | .sta a => some (.iw (Machine.instructionWord 3 a))
  | .jmp a => some (.iw (Machine.instructionWord 4 a))
  | .jmpi a => some (.iw (Machine.instructionWord 5 a))
  | .csr a => some (.iw (Machine.instructionWord 6 a))
  | .isz a => some (.iw (Machine.instructionWord 7 a))
  | .cra a => some (.iw (Machine.instructionWord 8 a))
  | .cta a => some (.iw (Machine.instructionWord 9 a))
  | .ita a => some (.iw (Machine.instructionWord 10 a))
  | .crf a => some (.iw (Machine.instructionWord 11 a))
  | .ctf a => some (.iw (Machine.instructionWord 12 a))
  | .sfz a => some (.iw (Machine.instructionWord 13 a))
  | .ror a => some (.iw (Machine.instructionWord 14 a))
  | .rol a => some (.iw (Machine.instructionWord 15 a))

/-- Which format a word of the opcode table has, from its length and value alone: the table mixes the
three, and the two numbers do not name the format (log entry 8). -/
def tableFormat (nbits w : Nat) : Option Encoded :=
  if nbits ≤ 8 then
    if w == 0x01 || w == 0x02 || w == 0x08 || w == 0x10 || w == 0x20 || w == 0x40 || w == 0x80 then
      some (.cw (BitVec.ofNat Config.wCw w))
    else if w < 128 then some (.ix (BitVec.ofNat Config.wIndex w))
    else none
  else if nbits ≤ 16 then
    if w < 0x1000 then some (.iw (BitVec.ofNat Config.wData w))
    else if w < 0x10000 then some (.cw (BitVec.ofNat Config.wCw w))
    else none
  else if nbits ≤ 24 then
    if w < 0x1000000 then some (.cw (BitVec.ofNat Config.wCw w)) else none
  else if nbits ≤ 32 then
    if w < 0x1000 then some (.iw (BitVec.ofNat Config.wData w)) else none
  else none

/-- The instruction the decoder reads from a word of the opcode table. -/
def decodeTableWord (nbits w : Nat) : Option Instr :=
  match tableFormat nbits w with
  | some e =>
    match decode e with
    | .ok i => some i
    | .error _ => none
  | none => none

end Sys2Proof
end

