-- ==== Sys2Proof/Machine/Flags.lean ====
section
/-!
DEFINITION. Every flag computation: F and Z of the flag register, the Z derivation, the F
operations, and the two 13-bit rotations. 10_state.md R27, 42_alu_ops.md R152 to R161.
-/

namespace Sys2Proof.Machine

/-- F, bit 0 of FLG. -/
def flagF (flg : FlagBits) : Bool := flg.getLsbD 0

/-- Z, bit 1 of FLG. -/
def flagZ (flg : FlagBits) : Bool := flg.getLsbD 1

/-- `(FLG & 1) | (2 if GPR = 0 else 0)`: Z from GPR, F kept (42_alu_ops.md R152). -/
def recomputeZ (gpr : Word) (flg : FlagBits) : FlagBits :=
  (flg &&& 1) ||| (if gpr = 0 then 2 else 0)

/-- `(FLG ^ 1) & 0x3` (R157). -/
def complementF (flg : FlagBits) : FlagBits := (flg ^^^ 1) &&& 3

/-- `FLG & 0x2` (R159). -/
def clearF (flg : FlagBits) : FlagBits := flg &&& 2

/-- One bit as a word of n bits. -/
def bitWord (n : Nat) (b : Bool) : BitVec n := if b then 1 else 0

/-- ACC after a rotate left: `((a << 1) & 0xFFF) | f` (R160). -/
def rotateLeftAcc (a : Word) (flg : FlagBits) : Word := a <<< 1 ||| bitWord 12 (flagF flg)

/-- FLG after a rotate left: `(FLG & 2) | a[11]` (R160). -/
def rotateLeftFlg (a : Word) (flg : FlagBits) : FlagBits := (flg &&& 2) ||| bitWord 2 (a.getLsbD 11)

/-- ACC after a rotate right: `(a >> 1) | (f << 11)` (R161). -/
def rotateRightAcc (a : Word) (flg : FlagBits) : Word := a >>> 1 ||| bitWord 12 (flagF flg) <<< 11

/-- FLG after a rotate right: `(FLG & 2) | a[0]` (R161). -/
def rotateRightFlg (a : Word) (flg : FlagBits) : FlagBits := (flg &&& 2) ||| bitWord 2 (a.getLsbD 0)

end Sys2Proof.Machine
end

