-- ==== Sys2Proof/Machine/Ops.lean ====
section
/-!
DEFINITION. The named operations over memory, the bus, the ALU and the bus-router: what one
component does in one phase. The machine takes no exception and returns from none (60_exceptions.md
R260, R262), so there is no entry or return here.
-/

namespace Sys2Proof.Machine

/-! ### Memory (20_memory.md R60, R65, 43_memory_ops.md R170, R171) -/

/-- `MemRead(a, 1)`: an address that is not listed reads as 0. -/
def Memory.read : Memory → Addr → Word
  | [], _ => 0
  | (k, v) :: rest, a => if k = a.toNat then v else Memory.read rest a

/-- `MemWrite(a, 1, v)`, keeping the canonical form: writing 0 removes the cell. -/
def Memory.write : Memory → Addr → Word → Memory
  | [], a, v => if v = 0 then [] else [(a.toNat, v)]
  | (k, x) :: rest, a, v =>
    if a.toNat < k then
      if v = 0 then (k, x) :: rest else (a.toNat, v) :: (k, x) :: rest
    else if a.toNat = k then
      if v = 0 then rest else (k, v) :: rest
    else (k, x) :: Memory.write rest a v

/-- Canonical from an address on: addresses strictly rising and below `MEM_SIZE`, no cell that holds 0. -/
def Memory.wfFrom : Nat → Memory → Bool
  | _, [] => true
  | lo, (k, x) :: rest => decide (lo ≤ k) && decide (k < Config.memSize) && x != 0 && Memory.wfFrom (k + 1) rest

/-- The canonical form of a memory (log entry 6). -/
def Memory.wf (m : Memory) : Bool := Memory.wfFrom 0 m

/-- The image from address k on, word for word: `IMAGE[a]` becomes `MEM[a]` (20_memory.md R63). -/
def Memory.ofImageFrom : Nat → List Nat → Memory
  | _, [] => []
  | k, v :: rest =>
    if BitVec.ofNat Config.wData v = 0 then Memory.ofImageFrom (k + 1) rest
    else (k, BitVec.ofNat Config.wData v) :: Memory.ofImageFrom (k + 1) rest

/-! ### Bus drivers (40_clock_phases.md R116) -/

/-- The eight bus sources: the seven registers and the memory. -/
inductive BusSource where
  | reg (r : RegName)
  | memory
  deriving DecidableEq, Repr

def busSources : List BusSource := registerOrder.map .reg ++ [.memory]

/-- The output-enable mask of a source. -/
def outputMask (l : Layout) : BusSource → ControlWord
  | .reg r => (masksOf l r).output
  | .memory => l.memOut

/-- The sources whose output-enable mask intersects the control word. -/
def drivers (l : Layout) (cw : ControlWord) : List BusSource :=
  busSources.filter fun d => intersects cw (outputMask l d)

/-- `value(d)`: a register's value zero-extended, or `MemRead(MAR, 1)` (R116). -/
def State.driven (s : State) : BusSource → Word
  | .reg r => State.readReg s r
  | .memory => Memory.read s.mem s.mar

/-- The ALU's precomputed sum, modulo 4096 (42_alu_ops.md R151). -/
def State.precomputedSum (s : State) : Word := s.acc + s.gpr

/-! ### ALU operations (42_alu_ops.md R153 to R161) -/

inductive AluOp where
  | a2g | add | cma | cmf | cla | clf | rol | ror
  deriving DecidableEq, Repr

def aluOps : List AluOp := [.a2g, .add, .cma, .cmf, .cla, .clf, .rol, .ror]

/-- The operation masks (00_scope.md R8). -/
def aluMask (l : Layout) : AluOp → ControlWord
  | .a2g => l.a2g
  | .add => l.add
  | .cma => l.cma
  | .cmf => l.cmf
  | .cla => l.cla
  | .clf => l.clf
  | .rol => l.rol
  | .ror => l.ror

/-- The operations whose mask intersects the control word (R153, D16). -/
def requestedOps (l : Layout) (cw : ControlWord) : List AluOp :=
  aluOps.filter fun op => intersects cw (aluMask l op)

/-- `A_A2G`, R154. -/
def State.accToGpr (s : State) : State := { s with gpr := s.acc }

/-- `A_ADD`, R155: the sum of the high level, F untouched. -/
def State.commitSum (s : State) : State := { s with acc := s.sum }

/-- `A_CMA`, R156. -/
def State.complementAcc (s : State) : State := { s with acc := ~~~s.acc }

/-- `A_CMF`, R157. -/
def State.complementFlagF (s : State) : State := { s with flg := complementF s.flg }

/-- `A_CLA`, R158. -/
def State.clearAcc (s : State) : State := { s with acc := 0 }

/-- `A_CLF`, R159. -/
def State.clearFlagF (s : State) : State := { s with flg := clearF s.flg }

/-- `A_ROL`, R160. -/
def State.rotateLeft (s : State) : State :=
  { s with acc := rotateLeftAcc s.acc s.flg, flg := rotateLeftFlg s.acc s.flg }

/-- `A_ROR`, R161. -/
def State.rotateRight (s : State) : State :=
  { s with acc := rotateRightAcc s.acc s.flg, flg := rotateRightFlg s.acc s.flg }

/-- One ALU operation; each reads FLG as the Z computation left it (R153). -/
def State.applyAlu (s : State) : AluOp → State
  | .a2g => s.accToGpr
  | .add => s.commitSum
  | .cma => s.complementAcc
  | .cmf => s.complementFlagF
  | .cla => s.clearAcc
  | .clf => s.clearFlagF
  | .rol => s.rotateLeft
  | .ror => s.rotateRight

/-- The ALU's first act of every falling edge (R152). -/
def State.deriveZ (s : State) : State := { s with flg := recomputeZ s.gpr s.flg }

/-! ### Bus-router (44_bus_router_ops.md R180 to R182) -/

/-- The swap of PC with the low 8 bits of GPR; bits 11:8 of GPR are kept (R181). -/
def State.swapPcGpr (s : State) : State :=
  { s with
    pc := (operandField s.gpr).setWidth Config.wPc
    gpr := (s.gpr &&& 0xF00) ||| (s.pc.setWidth Config.wData &&& 0x0FF) }

/-- The extraction of the opcode (R182). -/
def State.extractOpcode (s : State) : State := { s with opr := opcodeField s.gpr }

/-- Acts only when the control word equals one of the two combinations exactly (R180). -/
def State.route (s : State) : State :=
  if s.cw = s.cfg.layout.swap then s.swapPcGpr
  else if s.cw = s.cfg.layout.extract then s.extractOpcode
  else s

/-! ### Enabled register operations (41_register_ops.md R131 to R133) -/

/-- Increment one register if its line or the sentinel says so. -/
def State.incrementIfEnabled (s : State) (r : RegName) : State :=
  if incrementEnabled s.cw (masksOf s.cfg.layout r).increment then State.incrementReg s r else s

/-- Latch the bus into one register if its input line is asserted. -/
def State.latchIfEnabled (s : State) (r : RegName) : State :=
  if intersects s.cw (masksOf s.cfg.layout r).input then State.writeReg s r s.bus else s

/-- Write the bus to memory at MAR if the memory's input line is asserted (43_memory_ops.md R171). -/
def State.storeIfEnabled (s : State) : State :=
  if intersects s.cw s.cfg.layout.memIn then { s with mem := Memory.write s.mem s.mar s.bus } else s

end Sys2Proof.Machine
end

