-- ==== Sys2Proof/Machine/Pulse.lean ====
section
/-!
DEFINITION. One clock pulse with a given looked-up word: the items 4 to 7 of the rising edge
(45_sequencer.md R198 to R203) and the three phases after it (40_clock_phases.md R116 to R121, R124).
-/

namespace Sys2Proof.Machine

/-- The row of the microcode table at an index, if the table has it and it fits a control word
(45_sequencer.md R197, `WF_TABLE` of 00_scope.md R9). -/
def rowAt (c : Config) (i : Nat) : Option ControlWord :=
  match c.ucode[i]? with
  | some v => if v < 2 ^ Config.wCw then some (BitVec.ofNat Config.wCw v) else none
  | none => none

/-- Items 4 and 5 of the rising edge: the two conditional increments, in that order (R198, R199). -/
def conditionalIncrements (l : Layout) (f z : Bool) (w : ControlWord) : ControlWord :=
  let w4 := if intersects w l.ipcF0 && !f then w ||| l.ipc else w
  if intersects w4 l.ipcZ1 && z then w4 ||| l.ipc else w4

/-- Item 7: publish the effective word, then test halt (R201, R203). -/
def State.publish (s : State) (w : ControlWord) : State :=
  { s with cw := w, halted := s.halted || intersects w s.cfg.layout.hlt }

/-- Items 4 to 7 of the rising edge on a looked-up word (R191, R202): a clear-step word sets STEP to 0
and is replaced by row 0 verbatim (R200). None if the table has no row 0. -/
def State.risingEdge (s : State) (looked : ControlWord) : Option State :=
  let w := conditionalIncrements s.cfg.layout (flagF s.flg) (flagZ s.flg) looked
  if intersects w s.cfg.layout.clr then
    match rowAt s.cfg 0 with
    | some w0 => some (State.publish { s with step := 0 } w0)
    | none => none
  else some (State.publish s w)

/-- The high level: the one enabled driver, or a free value when there is none, goes on the bus, and
the ALU computes its sum (40_clock_phases.md R116 to R119). Two drivers are refused (R118). -/
def State.highLevel (s : State) : Except Refusal State :=
  match drivers s.cfg.layout s.cw with
  | [] => .ok { s with bus := Config.busDraw s.draws, draws := s.draws + 1, sum := s.precomputedSum }
  | [d] => .ok { s with bus := State.driven s d, sum := s.precomputedSum }
  | _ :: _ :: _ => .error .wfOneDriver

/-- At most one ALU operation (42_alu_ops.md R153); two are refused. -/
def State.aluOperation (s : State) : Except Refusal State :=
  match requestedOps s.cfg.layout s.cw with
  | [] => .ok s
  | [op] => .ok (State.applyAlu s op)
  | _ :: _ :: _ => .error .wfOneAluOp

/-- The falling edge: register increments, then Z, then the ALU operation, then the router
(40_clock_phases.md R120). -/
def State.fallingEdge (s : State) : Except Refusal State :=
  match (registerOrder.foldl State.incrementIfEnabled s).deriveZ.aluOperation with
  | .ok t => .ok t.route
  | .error e => .error e

/-- The low level: register latches, then the memory write at the MAR they leave (R121, R113 (e)). -/
def State.lowLevel (s : State) : State :=
  (registerOrder.foldl State.latchIfEnabled s).storeIfEnabled

/-- The three phases after the rising edge. -/
def State.laterPhases (s : State) : Host.Outcome State Fault Refusal :=
  match s.highLevel with
  | .error e => .refused e
  | .ok h =>
    match h.fallingEdge with
    | .error e => .refused e
    | .ok t => .next t.lowLevel

/-- One pulse whose looked-up word is `w`. On a halted machine nothing happens (R125); a pulse that
asserts halt ends in its rising edge (45_sequencer.md R201). -/
def runWord (w : ControlWord) (s : State) : Host.Outcome State Fault Refusal :=
  if s.halted then .next s
  else
    match s.risingEdge w with
    | none => .refused .wfTable
    | some r => if r.halted then .next r else r.laterPhases

/-- One pulse whose looked-up row has the given index (R197). -/
def runRow (i : Nat) (s : State) : Host.Outcome State Fault Refusal :=
  if s.halted then .next s
  else
    match rowAt s.cfg i with
    | none => .refused .wfTable
    | some w => runWord w s

/-- Pulses with the given looked-up words, one after another. -/
def runWords : List ControlWord → State → Host.Outcome State Fault Refusal
  | [], s => .next s
  | w :: rest, s =>
    match runWord w s with
    | .next t => runWords rest t
    | .fault r => .fault r
    | .refused r => .refused r

/-- The net effect of the three fetch pulses on an instruction word `w` at PC (45_sequencer.md R205,
46_reference_microprogram.md R225): MAR, GPR, PC, OPR, STEP and Z as listed there; CW is the
extraction, whose pulse nothing drives; SUM is that of the third pulse. -/
def State.fetched (s : State) (w : Word) : State :=
  { s with
    mar := s.pc.setWidth Config.wMar
    gpr := w
    pc := registerIncrement s.pc
    opr := opcodeField w
    step := Config.nFetch
    flg := recomputeZ w s.flg
    cw := wordExtract
    bus := Config.busDraw s.draws
    draws := s.draws + 1
    sum := s.acc + w }

/-- A whole instruction of the reference set: its fetch, then its useful execute rows, up to the
instruction boundary (R204; 46_reference_microprogram.md section 4). -/
def runInstruction (w : Word) (rows : List ControlWord) (s : State) : Host.Outcome State Fault Refusal :=
  if s.halted then .next s else runWords rows (s.fetched w)

end Sys2Proof.Machine
end

