-- ==== Sys2Proof/Machine/Admission.lean ====
section
/-!
DEFINITION. The three checks a configuration must pass before it has a run (00_scope.md R9), and the
refusal that names the first one it fails.
-/

namespace Sys2Proof.Machine

/-- `WF_TABLE`: exactly 128 rows, each below 2^24; at most 256 image words, each below 2^12. -/
def wfTable (c : Config) : Bool :=
  c.ucode.length == Config.nUcode && c.ucode.all (fun v => decide (v < 2 ^ Config.wCw)) &&
    decide (c.image.length ≤ Config.memSize) && c.image.all (fun v => decide (v < 2 ^ Config.wData))

/-- What one row adds to `EFF`: nothing if it asserts clear-step; otherwise the row, and the row with
`L_IPC` if it asserts a conditional increment. -/
def effectiveOfRow (l : Layout) (w : ControlWord) : List ControlWord :=
  if intersects w l.clr then []
  else if intersects w l.ipcF0 || intersects w l.ipcZ1 then [w, w ||| l.ipc]
  else [w]

/-- `EFF`: the effective control words the sequencer can publish; row 0 in every case (R9). -/
def effectiveWords (c : Config) : List ControlWord :=
  (rowAt c 0).toList ++ c.ucode.flatMap (fun v => effectiveOfRow c.layout (BitVec.ofNat Config.wCw v))

/-- At most one of the eight bus sources is enabled. -/
def oneDriver (l : Layout) (w : ControlWord) : Bool := decide ((drivers l w).length ≤ 1)

/-- At most one of the eight ALU operations is requested. -/
def oneAluOp (l : Layout) (w : ControlWord) : Bool := decide ((requestedOps l w).length ≤ 1)

/-- `WF_ONE_DRIVER`. -/
def wfOneDriver (c : Config) : Bool := (effectiveWords c).all (oneDriver c.layout)

/-- `WF_ONE_ALU_OP`. -/
def wfOneAluOp (c : Config) : Bool := (effectiveWords c).all (oneAluOp c.layout)

/-- The check that fails first, in the order of R9 (log entry 12); none if the configuration is well
formed. -/
def configRefusal (c : Config) : Option Refusal :=
  if !wfTable c then some .wfTable
  else if !wfOneDriver c then some .wfOneDriver
  else if !wfOneAluOp c then some .wfOneAluOp
  else none

end Sys2Proof.Machine
end

