-- ==== Sys2Proof/Machine/ControlLines.lean ====
section
/-!
DEFINITION. The meanings of the CW rows: one pulse whose looked-up word is that row's word and nothing
else (log entry 9). What the pulse does with the word is decided by the masks of the configuration.
-/

namespace Sys2Proof.Machine

/-- `T_PC_MAR`: MAR <- PC (41_register_ops.md R135). -/
def execTPcMar (s : State) : Host.Outcome State Fault Refusal := runWord lineTPcMar s

/-- `T_M_GPR`: GPR <- MEM[MAR] (43_memory_ops.md R173). -/
def execTMGpr (s : State) : Host.Outcome State Fault Refusal := runWord lineTMGpr s

/-- `T_GPR_MAR`: MAR <- GPR[7:0] (41_register_ops.md R136). -/
def execTGprMar (s : State) : Host.Outcome State Fault Refusal := runWord lineTGprMar s

/-- `T_GPR_M`: MEM[MAR] <- GPR (43_memory_ops.md R174). -/
def execTGprM (s : State) : Host.Outcome State Fault Refusal := runWord lineTGprM s

/-- `T_GPR_PC`: PC <- GPR[7:0] (41_register_ops.md R137). -/
def execTGprPc (s : State) : Host.Outcome State Fault Refusal := runWord lineTGprPc s

/-- `IPC`: PC <- PC + 1 (R138). -/
def execIpc (s : State) : Host.Outcome State Fault Refusal := runWord lineIpc s

/-- `IGPR`: GPR <- GPR + 1, seen by Z in the same pulse (R139). -/
def execIgpr (s : State) : Host.Outcome State Fault Refusal := runWord lineIgpr s

/-- `IACC`: ACC <- ACC + 1 (R140). -/
def execIacc (s : State) : Host.Outcome State Fault Refusal := runWord lineIacc s

/-- `A_A2G`: GPR <- ACC, after Z (42_alu_ops.md R154). -/
def execAA2g (s : State) : Host.Outcome State Fault Refusal := runWord lineA2g s

/-- `A_ADD`: ACC <- ACC + GPR of the start of the pulse (R155). -/
def execAAdd (s : State) : Host.Outcome State Fault Refusal := runWord lineAdd s

/-- `A_CMA`: ACC <- ~ACC (R156). -/
def execACma (s : State) : Host.Outcome State Fault Refusal := runWord lineCma s

/-- `A_CMF`: F inverted (R157). -/
def execACmf (s : State) : Host.Outcome State Fault Refusal := runWord lineCmf s

/-- `A_CLA`: ACC <- 0 (R158). -/
def execACla (s : State) : Host.Outcome State Fault Refusal := runWord lineCla s

/-- `A_CLF`: F <- 0 (R159). -/
def execAClf (s : State) : Host.Outcome State Fault Refusal := runWord lineClf s

/-- `A_ROL`: rotate left through F (R160). -/
def execARol (s : State) : Host.Outcome State Fault Refusal := runWord lineRol s

/-- `A_ROR`: rotate right through F (R161). -/
def execARor (s : State) : Host.Outcome State Fault Refusal := runWord lineRor s

/-- `A_OUT`: inert (R162). -/
def execAOut (s : State) : Host.Outcome State Fault Refusal := runWord lineAOut s

/-- `IPC_F0`: PC <- PC + 1 if F = 0 (45_sequencer.md R198). -/
def execIpcF0 (s : State) : Host.Outcome State Fault Refusal := runWord lineIpcF0 s

/-- `IPC_Z1`: PC <- PC + 1 if Z = 1 (R199). -/
def execIpcZ1 (s : State) : Host.Outcome State Fault Refusal := runWord lineIpcZ1 s

/-- `CLR_SC`: STEP <- 0 and the pulse runs row 0 (R200). -/
def execClrSc (s : State) : Host.Outcome State Fault Refusal := runWord lineClrSc s

/-- `HALT`: HALTED <- 1 in the rising edge (R201). -/
def execHalt (s : State) : Host.Outcome State Fault Refusal := runWord lineHalt s

/-- `X_PC2G | X_G2PC`: the swap (44_bus_router_ops.md R181). -/
def execSwap (s : State) : Host.Outcome State Fault Refusal := runWord wordSwap s

/-- `X_G2OPR`: the extraction (R182). -/
def execExtract (s : State) : Host.Outcome State Fault Refusal := runWord wordExtract s

/-- The zero word: STEP counts and Z is recomputed (30_encoding.md R83). -/
def execNopWord (s : State) : Host.Outcome State Fault Refusal := runWord wordNop s

end Sys2Proof.Machine
end

