-- ==== Sys2Proof/Machine/Instructions.lean ====
section
/-!
DEFINITION. The meanings of the sixteen instruction words of the reference set: the fetch of the word
and the useful execute rows of its microprogram, up to the instruction boundary
(46_reference_microprogram.md R226 to R241; log entry 11).
-/

namespace Sys2Proof.Machine

/-- `HLT`, R226: `HALT`. -/
def execHlt (a : Operand) (s : State) : Host.Outcome State Fault Refusal :=
  runInstruction (instructionWord 0 a) [lineHalt] s

/-- `ADD A`, R227: ACC <- ACC + MEM[A]. -/
def execAdd (a : Operand) (s : State) : Host.Outcome State Fault Refusal :=
  runInstruction (instructionWord 1 a) [lineTGprMar, lineTMGpr, lineAdd] s

/-- `ADDI A`, R228: ACC <- ACC + MEM[MEM[A][7:0]]. -/
def execAddi (a : Operand) (s : State) : Host.Outcome State Fault Refusal :=
  runInstruction (instructionWord 2 a) [lineTGprMar, lineTMGpr, lineTGprMar, lineTMGpr, lineAdd] s

/-- `STA A`, R229: MEM[A] <- ACC, through GPR. -/
def execSta (a : Operand) (s : State) : Host.Outcome State Fault Refusal :=
  runInstruction (instructionWord 3 a) [lineTGprMar, lineA2g, lineTGprM] s

/-- `JMP A`, R230: PC <- A. -/
def execJmp (a : Operand) (s : State) : Host.Outcome State Fault Refusal :=
  runInstruction (instructionWord 4 a) [lineTGprPc] s

/-- `JMPI A`, R231: PC <- MEM[A][7:0]. -/
def execJmpi (a : Operand) (s : State) : Host.Outcome State Fault Refusal :=
  runInstruction (instructionWord 5 a) [lineTGprMar, lineTMGpr, lineTGprPc] s

/-- `CSR A`, R232: MEM[A] <- 0x600 | (P + 1), PC <- A + 1. -/
def execCsr (a : Operand) (s : State) : Host.Outcome State Fault Refusal :=
  runInstruction (instructionWord 6 a) [wordSwap, lineTPcMar, lineTGprM ||| lineIpc] s

/-- `ISZ A`, R233: MEM[A] <- MEM[A] + 1, skip the next word if that is 0. -/
def execIsz (a : Operand) (s : State) : Host.Outcome State Fault Refusal :=
  runInstruction (instructionWord 7 a) [lineTGprMar, lineTMGpr, lineIgpr, lineTGprM, lineIpcZ1] s

/-- `CRA`, R234: ACC <- 0. -/
def execCra (a : Operand) (s : State) : Host.Outcome State Fault Refusal :=
  runInstruction (instructionWord 8 a) [lineCla] s

/-- `CTA`, R235: ACC <- ~ACC. -/
def execCta (a : Operand) (s : State) : Host.Outcome State Fault Refusal :=
  runInstruction (instructionWord 9 a) [lineCma] s

/-- `ITA`, R236: ACC <- ACC + 1. -/
def execIta (a : Operand) (s : State) : Host.Outcome State Fault Refusal :=
  runInstruction (instructionWord 10 a) [lineIacc] s

/-- `CRF`, R237: F <- 0. -/
def execCrf (a : Operand) (s : State) : Host.Outcome State Fault Refusal :=
  runInstruction (instructionWord 11 a) [lineClf] s

/-- `CTF`, R238: F inverted. -/
def execCtf (a : Operand) (s : State) : Host.Outcome State Fault Refusal :=
  runInstruction (instructionWord 12 a) [lineCmf] s

/-- `SFZ`, R239: skip the next word if F = 0. -/
def execSfz (a : Operand) (s : State) : Host.Outcome State Fault Refusal :=
  runInstruction (instructionWord 13 a) [lineIpcF0] s

/-- `ROR`, R240: rotate the accumulator right through F. -/
def execRor (a : Operand) (s : State) : Host.Outcome State Fault Refusal :=
  runInstruction (instructionWord 14 a) [lineRor] s

/-- `ROL`, R241: rotate the accumulator left through F. -/
def execRol (a : Operand) (s : State) : Host.Outcome State Fault Refusal :=
  runInstruction (instructionWord 15 a) [lineRol] s

end Sys2Proof.Machine
end

