-- ==== Sys2Proof/Machine/Sequencer.lean ====
section
/-!
DEFINITION. The control unit's choice of a row (45_sequencer.md R192 to R197) and the meanings of the
four index classes: a whole pulse at the row the class and its operands give (log entry 10).
-/

namespace Sys2Proof.Machine

/-- The index class of the pulse, from STEP and OPR (30_encoding.md R86): a fetch row, an execute
row, an execute row of the halt window, or none. -/
def State.selectIndex (s : State) : Instr :=
  if s.step ≤ Config.lastFetchStep then .ixFetch (s.step.setWidth 2)
  else if s.step ≤ Config.stepMax then
    if s.opr = Config.haltOpcode then
      .ixExecHalt (slotBesideHaltBit ((s.step - Config.nFetch).setWidth Config.slotWidth))
    else .ixExec s.opr ((s.step - Config.nFetch).setWidth Config.slotWidth)
  else .ixOverrun

/-- `IX_FETCH`: "index = step number directly (0,1,2)" (45_sequencer.md R193). -/
def execIxFetch (step : BitVec 2) (s : State) : Host.Outcome State Fault Refusal :=
  runRow step.toNat s

/-- `IX_EXEC`: the row `(OPR << 3) | (STEP - 3)` (R194). -/
def execIxExec (opcode : Opcode) (slot : Slot) (s : State) : Host.Outcome State Fault Refusal :=
  runRow ((opcode.toNat <<< Config.slotWidth) ||| slot.toNat) s

/-- `IX_EXEC_HALT`: the row `HALT_BIT | (STEP - 3)`; two slots that differ in the halt-bit alone have one
row, so that slots 4 to 7 alias slots 0 to 3 (R195). -/
def execIxExecHalt (slot : Slot) (s : State) : Host.Outcome State Fault Refusal :=
  runRow (Config.haltBit ||| slot.toNat) s

/-- `IX_OVERRUN`: "the result of `step()` is `stuck(WindowOverrun)`, no state changes" (R196). -/
def execIxOverrun (_s : State) : Host.Outcome State Fault Refusal := .fault .windowOverrun

end Sys2Proof.Machine
end

