-- ==== Sys2Proof/Machine/Dispatch.lean ====
section
/-!
DEFINITION. One arm per row of the opcode table, each a direct call of that row's meaning.
-/

namespace Sys2Proof.Machine

def exec (i : Instr) (s : State) : Host.Outcome State Fault Refusal :=
  match i with
  | .tPcMar => Sys2Proof.Machine.execTPcMar s
  | .tMGpr => Sys2Proof.Machine.execTMGpr s
  | .tGprMar => Sys2Proof.Machine.execTGprMar s
  | .tGprM => Sys2Proof.Machine.execTGprM s
  | .tGprPc => Sys2Proof.Machine.execTGprPc s
  | .ipc => Sys2Proof.Machine.execIpc s
  | .igpr => Sys2Proof.Machine.execIgpr s
  | .iacc => Sys2Proof.Machine.execIacc s
  | .aA2g => Sys2Proof.Machine.execAA2g s
  | .aAdd => Sys2Proof.Machine.execAAdd s
  | .aCma => Sys2Proof.Machine.execACma s
  | .aCmf => Sys2Proof.Machine.execACmf s
  | .aCla => Sys2Proof.Machine.execACla s
  | .aClf => Sys2Proof.Machine.execAClf s
  | .aRol => Sys2Proof.Machine.execARol s
  | .aRor => Sys2Proof.Machine.execARor s
  | .aOut => Sys2Proof.Machine.execAOut s
  | .ipcF0 => Sys2Proof.Machine.execIpcF0 s
  | .ipcZ1 => Sys2Proof.Machine.execIpcZ1 s
  | .clrSc => Sys2Proof.Machine.execClrSc s
  | .halt => Sys2Proof.Machine.execHalt s
  | .swap => Sys2Proof.Machine.execSwap s
  | .extract => Sys2Proof.Machine.execExtract s
  | .nopWord => Sys2Proof.Machine.execNopWord s
  | .ixFetch step => Sys2Proof.Machine.execIxFetch step s
  | .ixExec opcode slot => Sys2Proof.Machine.execIxExec opcode slot s
  | .ixExecHalt slot => Sys2Proof.Machine.execIxExecHalt slot s
  | .ixOverrun => Sys2Proof.Machine.execIxOverrun s
  | .hlt a => Sys2Proof.Machine.execHlt a s
  | .add a => Sys2Proof.Machine.execAdd a s
  | .addi a => Sys2Proof.Machine.execAddi a s
  | .sta a => Sys2Proof.Machine.execSta a s
  | .jmp a => Sys2Proof.Machine.execJmp a s
  | .jmpi a => Sys2Proof.Machine.execJmpi a s
  | .csr a => Sys2Proof.Machine.execCsr a s
  | .isz a => Sys2Proof.Machine.execIsz a s
  | .cra a => Sys2Proof.Machine.execCra a s
  | .cta a => Sys2Proof.Machine.execCta a s
  | .ita a => Sys2Proof.Machine.execIta a s
  | .crf a => Sys2Proof.Machine.execCrf a s
  | .ctf a => Sys2Proof.Machine.execCtf a s
  | .sfz a => Sys2Proof.Machine.execSfz a s
  | .ror a => Sys2Proof.Machine.execRor a s
  | .rol a => Sys2Proof.Machine.execRol a s

end Sys2Proof.Machine
end

