-- ==== Sys2Proof/Machine/Step.lean ====
section
/-!
DEFINITION. One call of `step()`, which is one clock pulse (40_clock_phases.md R110, R124), and where
a word of the opcode table has to stand for the next step to run it.
-/

namespace Sys2Proof.Machine

/-- A configuration that fails a check has no run (00_scope.md R9, R12); a halted machine does not
change (R125); otherwise the pulse is the meaning of the index class STEP and OPR select. -/
def step (s : State) : Host.Outcome State Fault Refusal :=
  match configRefusal s.cfg with
  | some r => .refused r
  | none => if s.halted then .next s else exec s.selectIndex s

/-- The row of the microcode table the next rising edge looks up, if there is one (45_sequencer.md
R193 to R196). -/
def State.nextRow (s : State) : Option Nat :=
  match s.selectIndex with
  | .ixFetch step => some step.toNat
  | .ixExec opcode slot => some ((opcode.toNat <<< Config.slotWidth) ||| slot.toNat)
  | .ixExecHalt slot => some (Config.haltBit ||| slot.toNat)
  | _ => none

/-- A state whose next `step` looks up a row: not halted, and STEP brought to 0 if it is past the
window. -/
def State.ready (s : State) : State :=
  { s with halted := false, step := if s.step ≤ Config.stepMax then s.step else 0 }

/-- Put a control word into the row the next pulse looks up. -/
def State.withControlWord (s : State) (w : ControlWord) : State :=
  match s.ready.nextRow with
  | some i => { s.ready with cfg := { s.cfg with ucode := s.cfg.ucode.set i w.toNat } }
  | none => s.ready

/-- Set STEP and OPR so that the next pulse looks up the row of this index, if any can (30_encoding.md
R86, R87). -/
def State.withIndex (s : State) (i : RowIndex) : State :=
  match decodeIndex i with
  | .ok (.ixFetch step) => { s with halted := false, step := step.setWidth Config.wStep }
  | .ok (.ixExec opcode slot) =>
    { s with halted := false, opr := opcode, step := Config.nFetch + slot.setWidth Config.wStep }
  | .ok (.ixExecHalt slot) =>
    { s with halted := false, opr := Config.haltOpcode, step := Config.nFetch + slot.setWidth Config.wStep }
  | _ => s

/-- Put an instruction word at the address in PC, with STEP at 0, so that the next pulse is the first
of its fetch (45_sequencer.md R204, R205). -/
def State.withInstructionWord (s : State) (w : Word) : State :=
  { s with halted := false, step := 0, mem := Memory.write s.mem (s.pc.setWidth Config.wMar) w }

/-- A word of the opcode table, put where the next step fetches it (log entries 7 and 8). -/
def State.withFetchWord (s : State) (nbits w : Nat) : State :=
  match tableFormat nbits w with
  | some (.cw c) => s.withControlWord c
  | some (.ix i) => s.withIndex i
  | some (.iw v) => s.withInstructionWord v
  | none => s

end Sys2Proof.Machine
end

