-- ==== Sys2Proof/Machine/Entry.lean ====
section
/-!
DEFINITION. The host's entry points other than `step()`: construction (70_reset_and_hazards.md R280),
`reset()` (R281, R282) and the read-only snapshot (60_exceptions.md R272).
-/

namespace Sys2Proof.Machine

/-- The initial state of a machine with this configuration (R280, 10_state.md R38): registers, CW and
HALTED 0, the image from address 0, the rest of memory 0. -/
def State.constructed (cfg : Config) : State :=
  { State.reset with mem := Memory.ofImageFrom 0 cfg.image, cfg := cfg }

/-- Construction: "If `cfg` fails a check of R9 the outcome is `refuse(<check>)` and there is no machine." -/
def construct (cfg : Config) : Host.Outcome State Fault Refusal :=
  match configRefusal cfg with
  | some r => .refused r
  | none => .next (State.constructed cfg)

/-- `reset()` on a machine that is not halted zeroes the registers and CW and keeps memory; BUS and SUM
become unspecified, here free values (R281, log entry 5). On a halted machine it is refused (R282). -/
def State.hostReset (s : State) : Host.Outcome State Fault Refusal :=
  if s.halted then .refused .resetWhenHalted
  else .next
    { s with
      pc := registerReset Config.wPc
      gpr := registerReset Config.wData
      acc := registerReset Config.wData
      mar := registerReset Config.wMar
      flg := registerReset Config.wFlg
      opr := registerReset Config.wOpc
      step := registerReset Config.wStep
      cw := 0
      bus := Config.busDraw s.draws
      sum := Config.sumDraw s.draws
      draws := s.draws + 1 }

/-- The nine fields of the snapshot (60_exceptions.md R272). -/
structure Snapshot where
  pc : PcValue
  gpr : Word
  acc : Word
  mar : Addr
  flg : FlagBits
  opr : Opcode
  step : StepCount
  cw : ControlWord
  halted : Bool
  deriving DecidableEq, Repr

/-- "Reading the snapshot changes nothing." -/
def State.snapshot (s : State) : Snapshot :=
  { pc := s.pc, gpr := s.gpr, acc := s.acc, mar := s.mar, flg := s.flg, opr := s.opr
    step := s.step, cw := s.cw, halted := s.halted }

/-- The read-only view `MEM[a]` the spec adds to the snapshot (D30). -/
def State.memoryView (s : State) (a : Addr) : Word := Memory.read s.mem a

end Sys2Proof.Machine
end

