-- ==== Sys2Proof/Safety.lean ====
section
/-!
DEFINITION. What counts as a safe run, and the conditions on a state that statements use. A run is safe
while every pulse has a successor; halt is a good end and is a next state (60_exceptions.md R265).
-/

namespace Sys2Proof.Machine

/-- The pulse has a successor: it is neither stuck nor refused. -/
def Completes (o : Host.Outcome State Fault Refusal) : Prop := ∃ t, o = .next t

/-- A machine that has a run and has not halted: its configuration passes the checks of 00_scope.md R9. -/
def Running (s : State) : Prop := configRefusal s.cfg = none ∧ s.halted = false

/-- The masks and lines are those of the reference layout (46_reference_microprogram.md R221 to R223);
the microcode table and the image may be any. -/
def OnReferenceLayout (s : State) : Prop := s.cfg.layout = referenceLayout

/-- The configuration is the reference one with some admissible image (R224). -/
def OnReference (s : State) : Prop :=
  s.cfg = referenceConfig s.cfg.image ∧ configRefusal s.cfg = none

/-- An instruction boundary (45_sequencer.md R204): the next pulse executes row 0, because STEP is 0 or
because the row it looks up asserts clear-step. -/
def AtBoundary (s : State) : Prop :=
  s.step = 0 ∨ ∃ i w, s.nextRow = some i ∧ rowAt s.cfg i = some w ∧ intersects w s.cfg.layout.clr = true

/-- The slot of each opcode's clear-step row, or halt row for opcode 0, in the reference table (R224):
the number of useful execute rows of the opcodes 1 to 15. -/
def lastSlot (o : Opcode) : Nat :=
  [0, 3, 5, 3, 1, 3, 3, 5, 1, 1, 1, 1, 1, 1, 1, 1].getD o.toNat 0

/-- The step counter has not passed the last row of its opcode's window (R224, R285 (c)). -/
def WithinWindow (s : State) : Prop := s.halted = true ∨ s.step.toNat ≤ 3 + lastSlot s.opr

/-- Calls of `step()` from an instruction boundary to the next, or to the halt (R243). -/
def pulsesOf (w : Word) : Nat := if opcodeField w = 0 then 4 else 3 + lastSlot (opcodeField w)

/-- The word latches the bus somewhere: a register's or the memory's input line is asserted. -/
def latchesBus (l : Layout) (w : ControlWord) : Bool :=
  registerOrder.any (fun r => intersects w (masksOf l r).input) || intersects w l.memIn

/-- Every effective word that asserts an input-enable also asserts an output-enable
(40_clock_phases.md R123). -/
def DrivesWhatItLatches (c : Config) : Prop :=
  ∀ w ∈ effectiveWords c, latchesBus c.layout w = true → drivers c.layout w ≠ []

/-- The states agree in everything but BUS, SUM and the count of draws: in the nine fields of the
snapshot, in memory and in the configuration (60_exceptions.md R272, 10_state.md R34, R35). -/
def SameButBus (s t : State) : Prop :=
  t = { s with bus := t.bus, sum := t.sum, draws := t.draws }

/-- The looked-up word after the two conditional increments, items 4 and 5 of the rising edge
(45_sequencer.md R198, R199): this is what the clear-step is tested on (R200). -/
def State.workingWord (s : State) (w : ControlWord) : ControlWord :=
  let l := s.cfg.layout
  let w4 := if w &&& l.ipcF0 ≠ 0 ∧ s.flg.getLsbD 0 = false then w ||| l.ipc else w
  if w4 &&& l.ipcZ1 ≠ 0 ∧ s.flg.getLsbD 1 = true then w4 ||| l.ipc else w4

/-- A register's value after the increments of a pulse with this effective word: one more, modulo its
width, if its increment mask is asserted or is the sentinel (41_register_ops.md R132, R133). -/
def incremented {n : Nat} (w : ControlWord) (m : IncMask) (v : BitVec n) : BitVec n :=
  match m with
  | .always => v + 1
  | .lines k => if w &&& k ≠ 0 then v + 1 else v

/-- What a completed pulse does whatever its lines: STEP counts (41_register_ops.md R133), CW is published
(45_sequencer.md R203), SUM is computed from the starting values (42_alu_ops.md R151), Z follows GPR and
F is kept (R152). Here with `b` on the bus. -/
def drivenPulse (s : State) (w : ControlWord) (b : Word) : State :=
  { s with
    step := s.step + 1
    cw := w
    sum := s.acc + s.gpr
    flg := (s.flg &&& 1) ||| (if s.gpr = 0 then 2 else 0)
    bus := b }

/-- The same for a pulse that nothing drives: BUS takes a free value (40_clock_phases.md R117). -/
def idlePulse (s : State) (w : ControlWord) : State :=
  { drivenPulse s w (Config.busDraw s.draws) with draws := s.draws + 1 }

/-- Two outcomes of the same kind, with related next states or the same reason. -/
def OutcomesAgree (R : State → State → Prop) :
    Host.Outcome State Fault Refusal → Host.Outcome State Fault Refusal → Prop
  | .next s, .next t => R s t
  | .fault a, .fault b => a = b
  | .refused a, .refused b => a = b
  | _, _ => False

end Sys2Proof.Machine
end

