-- ==== Sys2Proof/Certificates/Slice0/Obligations.lean ====
section
/-!
DEFINITION. The statements about the model, for the provers. Each docstring names the rules of spec/ it
formalises. Values marked free (BUS in an undriven pulse) are the model's opaque constants, and no
statement rests on what they are.
-/

open Sys2Proof Sys2Proof.Machine

/-! ## Encodings -/

/-- Words written out from 30_encoding.md R86, R95 and 46_reference_microprogram.md R221, R242, and the
rows they stand for; the three instruction words are R84's fields with the opcodes of R242. -/
def Obligations.TableWordsDecodeToTheirRows : Prop :=
  decode (.cw 0b000000000000000000000001#24) = .ok .tPcMar ∧
  decode (.cw 0b000000000000001000000000#24) = .ok .aAdd ∧
  decode (.cw 0b011000000000000000000000#24) = .ok .swap ∧
  decode (.cw 0b000000000000000000100010#24) = .error .noSingleRow ∧
  decode (.cw 0b001000000000000000000000#24) = .error .noSingleRow ∧
  decode (.ix 0b0000010#7) = .ok (.ixFetch 2) ∧
  decode (.ix 0b0000011#7) = .error .unreachableRow ∧
  decode (.ix 0b0000111#7) = .ok (.ixExecHalt 3) ∧
  decode (.ix 0b0010010#7) = .ok (.ixExec 2 2) ∧
  decode (.iw 0b001000001000#12) = .ok (.addi 8) ∧
  decode (.iw 0b000000000000#12) = .ok (.hlt 0) ∧
  decode (.iw 0b111111111111#12) = .ok (.rol 255)

/-- Every well-formed instruction but `IX_OVERRUN`, which produces no index, has a word, and that word
decodes to it with every operand at every value. -/
def Obligations.DecodeOfEncodeIsTheInstruction : Prop :=
  ∀ i : Instr,
    (encode i = none ↔ i = .ixOverrun) ∧
    (i.wf = true → ∀ e, encode i = some e → decode e = .ok i)

/-- Each word has one meaning: what decodes is well formed and encodes back to the same word. -/
def Obligations.EncodeOfDecodeIsTheWord : Prop :=
  ∀ (e : Encoded) (i : Instr), decode e = .ok i → i.wf = true ∧ encode i = some e

/-- 30_encoding.md R82, R95: the row of a line is asserted by a control word that has its bit, whatever
else it has; the rows SWAP, EXTRACT and NOP_WORD by their own word alone. -/
def Obligations.RowsAreAssertedByTheirTest : Prop :=
  ∀ (w p : ControlWord) (i : Instr), encode i = some (.cw p) →
    (i ∈ assertedRows w ↔
      if i = .swap ∨ i = .extract ∨ i = .nopWord then w = p else w &&& p ≠ 0)

/-- 30_encoding.md R84, R85: the fields of an instruction word, and the operand as an absolute address. -/
def Obligations.InstructionWordFields : Prop :=
  ∀ (o : Opcode) (a : Addr) (w : Word),
    instructionWord o a = o.setWidth 12 <<< 8 ||| a.setWidth 12 ∧
    opcodeField (instructionWord o a) = o ∧ operandField (instructionWord o a) = a ∧
    instructionWord (opcodeField w) (operandField w) = w ∧
    (opcodeField w).toNat = w.toNat / 256 ∧ (operandField w).toNat = w.toNat % 256

/-! ## The choice of a row, and what a step runs -/

/-- 45_sequencer.md R193, R194, R195, R196: the index from STEP and OPR. -/
def Obligations.RowIndexFollowsStepAndOpcode : Prop :=
  ∀ s : State,
    (s.step ≤ 2 → s.nextRow = some s.step.toNat) ∧
    (3 ≤ s.step → s.step ≤ 10 →
      s.nextRow = some ((s.opr.toNat <<< 3) ||| (if s.opr = 0 then 4 else 0) ||| (s.step.toNat - 3))) ∧
    (10 < s.step → s.nextRow = none)

/-- 30_encoding.md R87: row 3 is never read; a fetch row is read at its own step whatever OPR holds, rows 4
to 7 in execute by opcode 0 alone, at slots 0 to 3 and again at 4 to 7, and a row from 8 up by the opcode
of its window alone; and every row but 3 is read by some step and opcode. -/
def Obligations.EveryRowButThreeIsReachable : Prop :=
  (∀ (s : State) (i : Nat), s.nextRow = some i →
    i < 128 ∧ i ≠ 3 ∧ (i < 3 → s.step.toNat = i) ∧
    (4 ≤ i → i < 8 → s.opr = 0 ∧ (s.step.toNat = i - 1 ∨ s.step.toNat = i + 3)) ∧
    (8 ≤ i → s.opr.toNat = i / 8 ∧ s.step.toNat = i % 8 + 3)) ∧
  (∀ (s : State) (i : Nat), i < 128 → i ≠ 3 →
    ∃ (st : StepCount) (o : Opcode), ({ s with step := st, opr := o } : State).nextRow = some i) ∧
  (∀ (s : State) (o : Opcode) (i : Nat), i < 3 →
    ({ s with step := BitVec.ofNat 4 i, opr := o } : State).nextRow = some i)

/-- A step runs the decoded instruction: on a machine that runs, a step is the meaning of the index
class that STEP and OPR select, which is a well-formed instruction whose index decodes to it; it is the
pulse of the looked-up word; and where that word is that of one CW row, the step is the meaning of that
row. -/
def Obligations.StepRunsTheDecodedInstruction : Prop :=
  ∀ s : State, Running s →
    step s = exec s.selectIndex s ∧ s.selectIndex.wf = true ∧
    (∀ n, s.nextRow = some n →
      encode s.selectIndex = some (.ix (BitVec.ofNat 7 n)) ∧
      decode (.ix (BitVec.ofNat 7 n)) = .ok s.selectIndex) ∧
    (∀ n w, s.nextRow = some n → rowAt s.cfg n = some w →
      step s = runWord w s ∧ ∀ i, decode (.cw w) = .ok i → step s = exec i s)

/-- The pulse of a well-formed index class other than IX_OVERRUN completes on every admitted
configuration, and publishes the effective word of its row: the row with `L_IPC` where a conditional
line fires, or row 0 if that asserts clear-step (45_sequencer.md R197 to R200, R203). -/
def Obligations.IndexClassesPublishTheEffectiveWord : Prop :=
  ∀ (s : State) (i : Instr) (n : RowIndex), Running s → i.wf = true → encode i = some (.ix n) →
    ∃ t w w0, exec i s = .next t ∧ rowAt s.cfg n.toNat = some w ∧ rowAt s.cfg 0 = some w0 ∧
      t.cw = if s.workingWord w &&& s.cfg.layout.clr ≠ 0 then w0 else s.workingWord w

/-- 45_sequencer.md R196, 60_exceptions.md R266: a running machine is stuck exactly when its rising edge
finds STEP above 10; no other fault exists. That stuck is the fault `windowOverrun` is the model's choice
(log entry 3), and so is the first clause, that `IX_OVERRUN` as an instruction of its own answers it in
every state, a halted one too (log entry 17); a halted machine's step stands still all the same. -/
def Obligations.StuckExactlyPastTheWindow : Prop :=
  (∀ s : State, exec .ixOverrun s = .fault .windowOverrun) ∧
  (∀ s : State, Running s → ((∃ f, step s = .fault f) ↔ 10 < s.step) ∧
    (10 < s.step → step s = .fault .windowOverrun))

/-- 00_scope.md R9, R12: a configuration that fails a check is refused whatever the state; one that passes
is never refused, in any state, by a step. -/
def Obligations.OnlyIllFormedConfigurationsAreRefused : Prop :=
  ∀ (s : State) (r : Refusal), step s = .refused r ↔ configRefusal s.cfg = some r

/-- 40_clock_phases.md R125, 60_exceptions.md R265: halt is absorbing; any number of steps changes nothing. -/
def Obligations.HaltIsAbsorbing : Prop :=
  ∀ (s : State) (n : Nat), configRefusal s.cfg = none → s.halted = true →
    Host.Core.run Sys2Proof.core n s = .next s

/-! ## Construction, reset, snapshot -/

/-- 10_state.md R38, 70_reset_and_hazards.md R280: construction is refused exactly when a check of R9
fails, and otherwise gives zero registers, CW and HALTED and the image from address 0 with 0 elsewhere. -/
def Obligations.ConstructionLoadsTheImage : Prop :=
  ∀ cfg : Config,
    (∀ r, construct cfg = .refused r ↔ configRefusal cfg = some r) ∧
    (configRefusal cfg = none → ∃ s, construct cfg = .next s ∧
      s.pc = 0 ∧ s.gpr = 0 ∧ s.acc = 0 ∧ s.mar = 0 ∧ s.flg = 0 ∧ s.opr = 0 ∧ s.step = 0 ∧ s.cw = 0 ∧
      s.halted = false ∧ s.cfg = cfg ∧
      ∀ a : Addr, (s.memoryView a).toNat = cfg.image.getD a.toNat 0)

/-- 70_reset_and_hazards.md R281, R282: `reset()` zeroes the registers and CW, keeps memory, HALTED and
the configuration, and is refused on a halted machine. -/
def Obligations.ResetCallZeroesRegistersAndKeepsMemory : Prop :=
  ∀ s : State,
    (s.halted = true → s.hostReset = .refused .resetWhenHalted) ∧
    (s.halted = false → ∃ t, s.hostReset = .next t ∧
      t.pc = 0 ∧ t.gpr = 0 ∧ t.acc = 0 ∧ t.mar = 0 ∧ t.flg = 0 ∧ t.opr = 0 ∧ t.step = 0 ∧ t.cw = 0 ∧
      t.halted = false ∧ t.mem = s.mem ∧ t.cfg = s.cfg)

/-- 70_reset_and_hazards.md R284: the first pulse on the reference table after construction or `reset()`
publishes T_PC_MAR, leaves MAR at 0 and makes Z 1, since GPR is 0; F stays 0. -/
def Obligations.FirstPulseAfterResetSetsZ : Prop :=
  (∀ cfg s t, OnReference s → construct cfg = .next s → step s = .next t →
    t.cw = 0x000001 ∧ t.mar = 0 ∧ t.step = 1 ∧ t.flg = 2) ∧
  (∀ r s t, OnReference r → r.hostReset = .next s → step s = .next t →
    t.cw = 0x000001 ∧ t.mar = 0 ∧ t.step = 1 ∧ t.flg = 2)

/-- 10_state.md R38: the values of the state after construction with the reference configuration. That
`State.reset` is this machine is the model's choice (log entry 7), and so are its BUS and SUM, which R38
leaves unspecified and which the last clause makes those of the constructed machine (log entry 5). -/
def Obligations.ResetStateIsAllZero : Prop :=
  State.reset.snapshot =
    { pc := 0, gpr := 0, acc := 0, mar := 0, flg := 0, opr := 0, step := 0, cw := 0, halted := false } ∧
  (∀ a, State.reset.memoryView a = 0) ∧ construct (referenceConfig []) = .next State.reset

/-- 00_scope.md R9, D14: a table of another length than 128 rows and an image that is too long or has too
wide a word are refused. Replacing one row of a well-formed table: a value of 2^24 or more is refused;
a row under which two drivers can be enabled, or else two ALU operations requested, is refused by the
name of that check; any other is accepted. What a row can publish: nothing of its own if it asserts
clear-step, but for row 0; otherwise itself, and itself with `L_IPC` if it asserts a conditional
increment. The order of the checks is the model's choice (log entry 12). -/
def Obligations.BadRowsAreRefusedByName : Prop :=
  (∀ c : Config, (c.ucode.length ≠ 128 ∨ 256 < c.image.length ∨ ∃ v ∈ c.image, 4096 ≤ v) →
    construct c = .refused .wfTable) ∧
  ∀ (c : Config) (n v : Nat), configRefusal c = none → n < 128 →
    let withRow : Config := { c with ucode := c.ucode.set n v }
    let l := c.layout
    let w : ControlWord := BitVec.ofNat 24 v
    let published : List ControlWord :=
      if w &&& l.clr ≠ 0 then (if n = 0 then [w] else [])
      else if w &&& l.ipcF0 ≠ 0 ∨ w &&& l.ipcZ1 ≠ 0 then [w, w ||| l.ipc] else [w]
    (2 ^ 24 ≤ v → construct withRow = .refused .wfTable) ∧
    (v < 2 ^ 24 → (∃ x ∈ published, 2 ≤ (drivers l x).length) →
      construct withRow = .refused .wfOneDriver) ∧
    (v < 2 ^ 24 → (∀ x ∈ published, (drivers l x).length ≤ 1) →
      (∃ x ∈ published, 2 ≤ (requestedOps l x).length) → construct withRow = .refused .wfOneAluOp) ∧
    (v < 2 ^ 24 → (∀ x ∈ published, (drivers l x).length ≤ 1 ∧ (requestedOps l x).length ≤ 1) →
      ∃ s, construct withRow = .next s)

/-! ## Memory -/

/-- 20_memory.md R65, R70: a read returns the value last written to that address, and a write replaces
one whole word and no other. -/
def Obligations.ReadAfterWrite : Prop :=
  ∀ (m : Memory) (a b : Addr) (v : Word), m.wf = true →
    (m.write a v).read b = if b = a then v else m.read b

/-- The canonical form is one: memories in it that read alike at every address are the same list. -/
def Obligations.CanonicalMemoriesAreEqualByReads : Prop :=
  ∀ m n : Memory, m.wf = true → n.wf = true → (∀ a : Addr, m.read a = n.read a) → m = n

/-- Every instruction and every step keeps memory in canonical form. -/
def Obligations.EveryStepKeepsMemoryCanonical : Prop :=
  (∀ s t : State, s.mem.wf = true → step s = .next t → t.mem.wf = true) ∧
  (∀ (i : Instr) (s t : State), s.mem.wf = true → exec i s = .next t → t.mem.wf = true)

/-- Construction gives memory in canonical form, and so does the reset state. -/
def Obligations.ConstructionGivesCanonicalMemory : Prop :=
  State.reset.mem.wf = true ∧ ∀ cfg s, construct cfg = .next s → s.mem.wf = true

/-- 43_memory_ops.md R171, 20_memory.md R75: a completed pulse writes memory exactly if the memory's
input line is asserted in the effective word, at the MAR the pulse leaves, with the bus value; every
other address reads as before. For every configuration. -/
def Obligations.StoresGoToTheNewMar : Prop :=
  ∀ s t : State, Running s → s.mem.wf = true → step s = .next t → t.halted = false →
    (t.cw &&& s.cfg.layout.memIn ≠ 0 →
      t.memoryView t.mar = t.bus ∧ ∀ a, a ≠ t.mar → t.memoryView a = s.memoryView a) ∧
    (t.cw &&& s.cfg.layout.memIn = 0 → t.mem = s.mem)

/-! ## The generic register, the bus, the phases: any configuration -/

/-- 10_state.md R22, 41_register_ops.md R132, R134: the masking and increment properties of a register of
any width, and its reset. -/
def Obligations.GenericRegisterMasksAndWraps : Prop :=
  ∀ n v : Nat, (registerWrite n v).toNat = v % 2 ^ n ∧
    (∀ x : BitVec n, (registerIncrement x).toNat = (x.toNat + 1) % 2 ^ n) ∧
    registerIncrement (BitVec.allOnes n) = 0 ∧ registerReset n = 0

/-- 41_register_ops.md R131: after a completed pulse every register whose input line is asserted holds
the bus value, cut to its width, whatever else the pulse did to it. For every configuration. -/
def Obligations.LatchedRegistersHoldTheBus : Prop :=
  ∀ (s t : State) (r : RegName), Running s → step s = .next t → t.halted = false →
    t.cw &&& (masksOf s.cfg.layout r).input ≠ 0 →
    (t.readReg r).toNat = t.bus.toNat % 2 ^ registerWidth r

/-- 40_clock_phases.md R116, R117, 43_memory_ops.md R170, 20_memory.md R75: the bus carries the one
enabled source as it stood at the start of the pulse (STEP after a clear), the memory at the old MAR; a
pulse that nothing drives takes a fresh free value. And 42_alu_ops.md R151: SUM is that of the values ACC
and GPR had at the start of the pulse. For every configuration. -/
def Obligations.HighLevelDrivesBusAndSum : Prop :=
  ∀ s t : State, Running s → step s = .next t → t.halted = false →
    ((∃ d, drivers s.cfg.layout t.cw = [d] ∧ t.draws = s.draws ∧
        (d ≠ .reg .step → t.bus = s.driven d)) ∨
      (drivers s.cfg.layout t.cw = [] ∧ t.bus = Config.busDraw s.draws ∧ t.draws = s.draws + 1)) ∧
    t.sum.toNat = (s.acc.toNat + s.gpr.toNat) % 4096

/-- 10_state.md R34, R35: BUS and SUM carry nothing from one pulse to the next. Two running machines that
differ only there take completed pulses to the same state. -/
def Obligations.BusAndSumCarryNothing : Prop :=
  ∀ (s : State) (b u : Word), s.halted = false →
    OutcomesAgree (fun p q => p.halted = q.halted ∧ (p.halted = false → p = q) ∧
        q = { p with bus := q.bus, sum := q.sum })
      (step s) (step { s with bus := b, sum := u })

/-- 10_state.md R33, R37, 20_memory.md R61: no instruction and no step writes the configuration. -/
def Obligations.TheConfigurationNeverChanges : Prop :=
  (∀ s t : State, step s = .next t → t.cfg = s.cfg) ∧
  (∀ (i : Instr) (s t : State), exec i s = .next t → t.cfg = s.cfg)

/-- 45_sequencer.md R201: a pulse halts exactly if its effective word asserts the halt line, and then it
changes only CW and HALTED; where the looked-up word, after the conditional increments, asserts
clear-step, so that it is row 0 that halts, STEP is 0, and otherwise STEP is as it was. The clear of STEP
in that one case is the model's reading of R200 against R201 (log entry 13). -/
def Obligations.AHaltingPulseChangesOnlyCwAndHalted : Prop :=
  ∀ (s t : State) (n : Nat) (w : ControlWord), Running s → s.nextRow = some n →
    rowAt s.cfg n = some w → step s = .next t →
    (t.halted = true ↔ t.cw &&& s.cfg.layout.hlt ≠ 0) ∧
    (t.halted = true → t = { s with
      cw := t.cw
      halted := true
      step := if s.workingWord w &&& s.cfg.layout.clr ≠ 0 then 0 else s.step })

/-- 45_sequencer.md R200, 70_reset_and_hazards.md R292: a clear-step word is replaced whole by row 0, for
every configuration. A looked-up word that asserts clear-step still does after the conditional
increments; then the pulse is the one of any other such word, whatever else either asserts, and it is the
three later phases of row 0 from STEP 0, or the halt if row 0 asserts the halt line. That such a halt
leaves STEP at 0 is the model's reading of R200 against R201, which says that no register changes (log
entry 13). -/
def Obligations.ClearStepDiscardsTheRest : Prop :=
  ∀ (s : State) (v : ControlWord),
    let l := s.cfg.layout
    (v &&& l.clr ≠ 0 → s.workingWord v &&& l.clr ≠ 0) ∧
    (s.workingWord v &&& l.clr ≠ 0 →
      (∀ w, s.workingWord w &&& l.clr ≠ 0 → runWord v s = runWord w s) ∧
      (∀ t, s.halted = false → runWord v s = .next t → rowAt s.cfg 0 = some t.cw) ∧
      (∀ w0, s.halted = false → rowAt s.cfg 0 = some w0 →
        (w0 &&& l.hlt = 0 → runWord v s = ({ s with step := 0, cw := w0 } : State).laterPhases) ∧
        (w0 &&& l.hlt ≠ 0 → runWord v s = .next { s with step := 0, cw := w0, halted := true })))

/-! ## The control lines on the reference layout: result, frame and completion -/

/-- 41_register_ops.md R135, R136, R137, 43_memory_ops.md R173, R174: the five bus transfers. Everything
not named is as before the pulse, memory included, but for what every completed pulse does. -/
def Obligations.TransferLinesMoveOneWord : Prop :=
  ∀ s : State, OnReferenceLayout s → s.halted = false →
    exec .tPcMar s = .next { drivenPulse s 0x000001 (s.pc.setWidth 12) with mar := s.pc } ∧
    exec .tMGpr s = .next { drivenPulse s 0x000002 (s.mem.read s.mar) with gpr := s.mem.read s.mar } ∧
    exec .tGprMar s = .next { drivenPulse s 0x000004 s.gpr with mar := s.gpr.setWidth 8 } ∧
    exec .tGprM s = .next { drivenPulse s 0x000008 s.gpr with mem := s.mem.write s.mar s.gpr } ∧
    exec .tGprPc s = .next { drivenPulse s 0x000010 s.gpr with pc := s.gpr.setWidth 8 }

/-- The frame of the one storing line: after `T_GPR_M` the word at MAR is GPR and every other address
reads as before (43_memory_ops.md R174). -/
def Obligations.StoreLineWritesOneWord : Prop :=
  ∀ s t : State, OnReferenceLayout s → s.halted = false → s.mem.wf = true → exec .tGprM s = .next t →
    t.memoryView s.mar = s.gpr ∧ ∀ a, a ≠ s.mar → t.memoryView a = s.memoryView a

/-- 41_register_ops.md R132, R133, R138, R139, R140: the three increment lines of the reference layout; Z
sees the incremented GPR, and F is no carry. And for every configuration: each register increments
exactly if its mask is asserted in the effective word or is the sentinel, modulo its width, where no later
act of the same pulse writes the register (a latch, the ALU, the router); STEP counts from 0 where the
looked-up word, after the conditional increments, asserts clear-step. For FLG see
`ZFollowsGprEveryPulse`. -/
def Obligations.IncrementLinesAddOne : Prop :=
  (∀ s : State, OnReferenceLayout s → s.halted = false →
    exec .ipc s = .next { idlePulse s 0x000020 with pc := s.pc + 1 } ∧
    exec .igpr s = .next { idlePulse s 0x000040 with
      gpr := s.gpr + 1, flg := (s.flg &&& 1) ||| (if s.gpr + 1 = 0 then 2 else 0) } ∧
    exec .iacc s = .next { idlePulse s 0x000080 with acc := s.acc + 1 }) ∧
  (∀ (s t : State) (n : Nat) (w : ControlWord), Running s → s.nextRow = some n →
    rowAt s.cfg n = some w → step s = .next t → t.halted = false →
    let l := s.cfg.layout
    (t.cw &&& l.pc.input = 0 → t.cw ≠ l.swap → t.pc = incremented t.cw l.pc.increment s.pc) ∧
    (t.cw &&& l.gpr.input = 0 → t.cw &&& l.a2g = 0 → t.cw ≠ l.swap →
      t.gpr = incremented t.cw l.gpr.increment s.gpr) ∧
    (t.cw &&& l.acc.input = 0 → t.cw &&& l.add = 0 → t.cw &&& l.cma = 0 → t.cw &&& l.cla = 0 →
      t.cw &&& l.rol = 0 → t.cw &&& l.ror = 0 → t.acc = incremented t.cw l.acc.increment s.acc) ∧
    (t.cw &&& l.mar.input = 0 → t.mar = incremented t.cw l.mar.increment s.mar) ∧
    (t.cw &&& l.opr.input = 0 → (t.cw = l.swap ∨ t.cw ≠ l.extract) →
      t.opr = incremented t.cw l.opr.increment s.opr) ∧
    (t.cw &&& l.step.input = 0 → t.step = incremented t.cw l.step.increment
      (if s.workingWord w &&& l.clr ≠ 0 then 0 else s.step)))

/-- 42_alu_ops.md R153 to R159: the ALU operations other than the rotations. On the reference layout; Z is
that of GPR before the operation, and only the two operations on F change F. And for every configuration:
at most one operation is requested, and it acts on ACC and FLG as the increments of the pulse left them,
the sum on the values at the start of the pulse; a latch of the result's register, or the swap, comes
later. -/
def Obligations.AluOperations : Prop :=
  (∀ s : State, OnReferenceLayout s → s.halted = false →
    exec .aA2g s = .next { idlePulse s 0x000100 with gpr := s.acc } ∧
    exec .aAdd s = .next { idlePulse s 0x000200 with acc := s.acc + s.gpr } ∧
    exec .aCma s = .next { idlePulse s 0x000400 with acc := ~~~s.acc } ∧
    exec .aCla s = .next { idlePulse s 0x001000 with acc := 0 } ∧
    exec .aCmf s = .next { idlePulse s 0x000800 with
      flg := (if s.gpr = 0 then 2 else 0) ||| (if s.flg.getLsbD 0 then 0 else 1) } ∧
    exec .aClf s = .next { idlePulse s 0x002000 with flg := if s.gpr = 0 then 2 else 0 }) ∧
  (∀ s t : State, Running s → step s = .next t → t.halted = false →
    let l := s.cfg.layout
    let acc1 := incremented t.cw l.acc.increment s.acc
    let flg1 := incremented t.cw l.flg.increment s.flg
    (requestedOps l t.cw).length ≤ 1 ∧
    (t.cw &&& l.gpr.input = 0 → t.cw ≠ l.swap → t.cw &&& l.a2g ≠ 0 → t.gpr = acc1) ∧
    (t.cw &&& l.acc.input = 0 →
      (t.cw &&& l.add ≠ 0 → t.acc = s.acc + s.gpr) ∧
      (t.cw &&& l.cma ≠ 0 → t.acc = ~~~acc1) ∧
      (t.cw &&& l.cla ≠ 0 → t.acc = 0)) ∧
    (t.cw &&& l.flg.input = 0 →
      (t.cw &&& l.cmf ≠ 0 → t.flg.getLsbD 0 = !flg1.getLsbD 0) ∧
      (t.cw &&& l.clf ≠ 0 → t.flg.getLsbD 0 = false)))

/-- 42_alu_ops.md R160, R161: the two rotations of the 13-bit pair (F, ACC), bit by bit. On the reference
layout, Z from GPR. And for every configuration, on ACC and F as the increments of the pulse left them,
where no latch overwrites the register. -/
def Obligations.AluRotations : Prop :=
  (∀ s : State, OnReferenceLayout s → s.halted = false →
    (∃ t, exec .aRol s = .next t ∧
      (∀ k : Nat, 1 ≤ k → k < 12 → t.acc.getLsbD k = s.acc.getLsbD (k - 1)) ∧
      t.acc.getLsbD 0 = s.flg.getLsbD 0 ∧ t.flg.getLsbD 0 = s.acc.getLsbD 11 ∧
      t.flg.getLsbD 1 = decide (s.gpr = 0) ∧
      t = { idlePulse s 0x004000 with acc := t.acc, flg := t.flg }) ∧
    (∃ t, exec .aRor s = .next t ∧
      (∀ k : Nat, k < 11 → t.acc.getLsbD k = s.acc.getLsbD (k + 1)) ∧
      t.acc.getLsbD 11 = s.flg.getLsbD 0 ∧ t.flg.getLsbD 0 = s.acc.getLsbD 0 ∧
      t.flg.getLsbD 1 = decide (s.gpr = 0) ∧
      t = { idlePulse s 0x008000 with acc := t.acc, flg := t.flg })) ∧
  (∀ s t : State, Running s → step s = .next t → t.halted = false →
    let l := s.cfg.layout
    let acc1 := incremented t.cw l.acc.increment s.acc
    let flg1 := incremented t.cw l.flg.increment s.flg
    (t.cw &&& l.rol ≠ 0 →
      (t.cw &&& l.acc.input = 0 → t.acc.getLsbD 0 = flg1.getLsbD 0 ∧
        ∀ k : Nat, 1 ≤ k → k < 12 → t.acc.getLsbD k = acc1.getLsbD (k - 1)) ∧
      (t.cw &&& l.flg.input = 0 → t.flg.getLsbD 0 = acc1.getLsbD 11)) ∧
    (t.cw &&& l.ror ≠ 0 →
      (t.cw &&& l.acc.input = 0 → t.acc.getLsbD 11 = flg1.getLsbD 0 ∧
        ∀ k : Nat, k < 11 → t.acc.getLsbD k = acc1.getLsbD (k + 1)) ∧
      (t.cw &&& l.flg.input = 0 → t.flg.getLsbD 0 = acc1.getLsbD 0)))

/-- 42_alu_ops.md R160, R161: each rotation undoes the other on (F, ACC), and thirteen rotations to the
left restore the pair. -/
def Obligations.RotationsInvertAndHaveOrderThirteen : Prop :=
  ∀ (a : Word) (g : FlagBits),
    rotateRightAcc (rotateLeftAcc a g) (rotateLeftFlg a g) = a ∧
    flagF (rotateRightFlg (rotateLeftAcc a g) (rotateLeftFlg a g)) = flagF g ∧
    rotateLeftAcc (rotateRightAcc a g) (rotateRightFlg a g) = a ∧
    flagF (rotateLeftFlg (rotateRightAcc a g) (rotateRightFlg a g)) = flagF g ∧
    (let turn := fun p : Word × FlagBits => (rotateLeftAcc p.1 p.2, rotateLeftFlg p.1 p.2)
     turn^[13] (a, g) = (a, g))

/-- 42_alu_ops.md R162, 30_encoding.md R83: the inert line and the zero word do nothing but what every
completed pulse does. -/
def Obligations.InertLineAndZeroWordOnlyCount : Prop :=
  ∀ s : State, OnReferenceLayout s → s.halted = false →
    exec .aOut s = .next (idlePulse s 0x010000) ∧ exec .nopWord s = .next (idlePulse s 0x000000)

/-- 45_sequencer.md R198, R199: the conditional increments, on F and Z as they stood at the start of the
pulse; the published word shows the OR-ed increment line. -/
def Obligations.ConditionalIncrementsTestTheFlags : Prop :=
  ∀ s : State, OnReferenceLayout s → s.halted = false →
    exec .ipcF0 s = .next (if s.flg.getLsbD 0 then idlePulse s 0x020000
      else { idlePulse s 0x020020 with pc := s.pc + 1 }) ∧
    exec .ipcZ1 s = .next (if s.flg.getLsbD 1 then { idlePulse s 0x040020 with pc := s.pc + 1 }
      else idlePulse s 0x040000)

/-- 44_bus_router_ops.md R180, R181, R182. On the reference layout: the swap keeps GPR[11:8], twice it
restores both registers, and the extraction leaves GPR as it is. And for every configuration: the router
acts if the effective word equals one of the two combinations, the swap first, on PC and GPR as the
increments and the ALU of the pulse left them, where no latch overwrites the register; on any other word
those values stand. -/
def Obligations.RouterCombinations : Prop :=
  (∀ s : State, OnReferenceLayout s → s.halted = false →
    exec .swap s = .next { idlePulse s 0x600000 with
      pc := s.gpr.setWidth 8, gpr := (s.gpr &&& 0xF00) ||| s.pc.setWidth 12 } ∧
    (∃ t u, exec .swap s = .next t ∧ exec .swap t = .next u ∧ u.pc = s.pc ∧ u.gpr = s.gpr) ∧
    exec .extract s = .next { idlePulse s 0x800000 with opr := s.gpr.extractLsb' 8 4 }) ∧
  (∀ s t : State, Running s → step s = .next t → t.halted = false →
    let l := s.cfg.layout
    let pc1 := incremented t.cw l.pc.increment s.pc
    let gpr1 := if t.cw &&& l.a2g ≠ 0 then incremented t.cw l.acc.increment s.acc
      else incremented t.cw l.gpr.increment s.gpr
    (t.cw = l.swap →
      (t.cw &&& l.pc.input = 0 → t.pc = gpr1.setWidth 8) ∧
      (t.cw &&& l.gpr.input = 0 → t.gpr = (gpr1 &&& 0xF00) ||| pc1.setWidth 12)) ∧
    (t.cw = l.extract → t.cw ≠ l.swap → t.cw &&& l.opr.input = 0 →
      t.opr = gpr1.extractLsb' 8 4) ∧
    (t.cw ≠ l.swap →
      (t.cw &&& l.pc.input = 0 → t.pc = pc1) ∧ (t.cw &&& l.gpr.input = 0 → t.gpr = gpr1)) ∧
    ((t.cw = l.swap ∨ t.cw ≠ l.extract) → t.cw &&& l.opr.input = 0 →
      t.opr = incremented t.cw l.opr.increment s.opr))

/-- 45_sequencer.md R200, R201: the two lines that end an instruction. A clear-step pulse is the pulse of
row 0 from STEP 0, whatever row 0 is: its later phases, or the halt if it asserts the halt line (that STEP
is then 0 is the model's reading of R200 against R201, which says that no register changes, log entry 13);
it completes on every admitted configuration. On the reference table it is the first
fetch pulse, with STEP 0 before its falling edge and 1 after. The halt line stops the pulse in its rising
edge. -/
def Obligations.ClearStepAndHaltLines : Prop :=
  ∀ s : State, OnReferenceLayout s → s.halted = false →
    (∀ w0, rowAt s.cfg 0 = some w0 →
      (w0 &&& 0x100000 = 0 → exec .clrSc s = ({ s with step := 0, cw := w0 } : State).laterPhases) ∧
      (w0 &&& 0x100000 ≠ 0 → exec .clrSc s = .next { s with step := 0, cw := w0, halted := true })) ∧
    (configRefusal s.cfg = none → ∃ t, exec .clrSc s = .next t ∧ rowAt s.cfg 0 = some t.cw) ∧
    (rowAt s.cfg 0 = some 0x000001 →
      exec .clrSc s = .next { drivenPulse s 0x000001 (s.pc.setWidth 12) with mar := s.pc, step := 1 }) ∧
    exec .halt s = .next { s with cw := 0x100000, halted := true }

/-- 44_bus_router_ops.md R180, R183: with any other line beside it the word is neither combination: a
word that is not CW_SWAP and asserts neither PC line leaves PC, and one that is not CW_EXTRACT leaves
OPR. Also 45_sequencer.md R206 and 10_state.md R23 to R28: on the reference layout each register
changes only by its own lines. -/
def Obligations.RegistersChangeOnlyByTheirLines : Prop :=
  ∀ (w : ControlWord) (s t : State), OnReferenceLayout s → runWord w s = .next t →
    (t.pc ≠ s.pc → t.cw &&& 0x000030 ≠ 0 ∨ t.cw = 0x600000) ∧
    (t.gpr ≠ s.gpr → t.cw &&& 0x000142 ≠ 0 ∨ t.cw = 0x600000) ∧
    (t.acc ≠ s.acc → t.cw &&& 0x00D680 ≠ 0) ∧
    (t.mar ≠ s.mar → t.cw &&& 0x000005 ≠ 0) ∧
    (t.flg.getLsbD 0 ≠ s.flg.getLsbD 0 → t.cw &&& 0x00E800 ≠ 0) ∧
    (t.opr ≠ s.opr → t.cw = 0x800000) ∧
    (t.mem ≠ s.mem → t.cw &&& 0x000008 ≠ 0)

/-- 40_clock_phases.md R113, 70_reset_and_hazards.md R288, R289, R290: words with several lines act in
phase order; 44_bus_router_ops.md R183: the swap with a line more, and half of it, swap nothing. That two
drivers and two ALU operations are refused by `runWord` itself, outside an admitted configuration, is the
model's choice (log entry 12). -/
def Obligations.CompositeWordsFollowThePhaseOrder : Prop :=
  ∀ s : State, OnReferenceLayout s → s.halted = false →
    runWord 0x000021 s = .next { drivenPulse s 0x000021 (s.pc.setWidth 12) with
      mar := s.pc, pc := s.pc + 1 } ∧
    runWord 0x000022 s = .next { drivenPulse s 0x000022 (s.mem.read s.mar) with
      gpr := s.mem.read s.mar, pc := s.pc + 1 } ∧
    runWord 0x000030 s = .next { drivenPulse s 0x000030 s.gpr with pc := s.gpr.setWidth 8 } ∧
    runWord 0x00000C s = .next { drivenPulse s 0x00000C s.gpr with
      mar := s.gpr.setWidth 8, mem := s.mem.write (s.gpr.setWidth 8) s.gpr } ∧
    runWord 0x000048 s = .next { drivenPulse s 0x000048 s.gpr with
      mem := s.mem.write s.mar s.gpr, gpr := s.gpr + 1
      flg := (s.flg &&& 1) ||| (if s.gpr + 1 = 0 then 2 else 0) } ∧
    runWord 0x000240 s = .next { idlePulse s 0x000240 with
      acc := s.acc + s.gpr, gpr := s.gpr + 1
      flg := (s.flg &&& 1) ||| (if s.gpr + 1 = 0 then 2 else 0) } ∧
    runWord 0x000202 s = .next { drivenPulse s 0x000202 (s.mem.read s.mar) with
      acc := s.acc + s.gpr, gpr := s.mem.read s.mar } ∧
    runWord 0x000280 s = .next { idlePulse s 0x000280 with acc := s.acc + s.gpr } ∧
    runWord 0x600020 s = .next { idlePulse s 0x600020 with pc := s.pc + 1 } ∧
    runWord 0x200000 s = .next (idlePulse s 0x200000) ∧
    runWord 0x000600 s = .refused .wfOneAluOp ∧ runWord 0x000003 s = .refused .wfOneDriver

/-- 42_alu_ops.md R152, for every configuration: after every completed pulse that does not latch FLG, Z
says whether GPR, as incremented in the pulse and before any later write of it, is 0; and F is that of FLG
after its own increment, if it has one, unless an operation on F is requested. On the reference layout
that is: Z follows GPR + 1 under IGPR and GPR otherwise, and F is kept unless a line of its own is
asserted. -/
def Obligations.ZFollowsGprEveryPulse : Prop :=
  (∀ s t : State, Running s → step s = .next t → t.halted = false →
    let l := s.cfg.layout
    t.cw &&& l.flg.input = 0 →
      (t.flg.getLsbD 1 = true ↔ incremented t.cw l.gpr.increment s.gpr = 0) ∧
      (t.cw &&& l.cmf = 0 → t.cw &&& l.clf = 0 → t.cw &&& l.rol = 0 → t.cw &&& l.ror = 0 →
        t.flg.getLsbD 0 = (incremented t.cw l.flg.increment s.flg).getLsbD 0)) ∧
  (∀ s t : State, OnReferenceLayout s → Running s → step s = .next t → t.halted = false →
    (t.flg.getLsbD 1 = true ↔ (if t.cw &&& 0x000040 ≠ 0 then s.gpr + 1 else s.gpr) = 0) ∧
    (t.cw &&& 0x00E800 = 0 → t.flg.getLsbD 0 = s.flg.getLsbD 0))

/-- 10_state.md R29, 41_register_ops.md R133: STEP counts every completed pulse, from 0 if the looked-up
row asserts clear-step, and never passes 11. -/
def Obligations.StepCountsEveryPulse : Prop :=
  ∀ (s t : State) (n : Nat) (w : ControlWord), OnReferenceLayout s → Running s → step s = .next t →
    t.halted = false → s.nextRow = some n → rowAt s.cfg n = some w →
    t.step = (if w &&& 0x080000 ≠ 0 then 1 else s.step + 1) ∧ t.step ≤ 11

/-! ## The reference instructions: net effect, frame and completion -/

/-- 46_reference_microprogram.md R227: `ADD A` completes with this state at the instruction boundary. -/
def Obligations.AddAddsAMemoryWord : Prop :=
  ∀ (a : Addr) (s : State), OnReferenceLayout s → s.halted = false →
    ∃ t, exec (.add a) s = .next t ∧
      t.mar = a ∧ t.gpr = s.mem.read a ∧ t.acc = s.acc + s.mem.read a ∧ t.pc = s.pc + 1 ∧ t.opr = 1 ∧
      t.step = 6 ∧ t.cw = 0x000200 ∧
      t.flg = (s.flg &&& 1) ||| (if s.mem.read a = 0 then 2 else 0) ∧
      t.halted = false ∧ t.mem = s.mem ∧ t.cfg = s.cfg

/-- R228: `ADDI A` adds the word whose address is the low 8 bits of the pointer word. -/
def Obligations.AddiAddsThroughAPointer : Prop :=
  ∀ (a : Addr) (s : State), OnReferenceLayout s → s.halted = false →
    let p : Addr := (s.mem.read a).setWidth 8
    ∃ t, exec (.addi a) s = .next t ∧
      t.mar = p ∧ t.gpr = s.mem.read p ∧ t.acc = s.acc + s.mem.read p ∧ t.pc = s.pc + 1 ∧ t.opr = 2 ∧
      t.step = 8 ∧ t.cw = 0x000200 ∧
      t.flg = (s.flg &&& 1) ||| (if s.mem.read p = 0 then 2 else 0) ∧
      t.halted = false ∧ t.mem = s.mem ∧ t.cfg = s.cfg

/-- R229: `STA A` stores ACC at A through GPR; every other word of memory and ACC are unchanged. -/
def Obligations.StaStoresTheAccumulator : Prop :=
  ∀ (a : Addr) (s : State), OnReferenceLayout s → s.halted = false → s.mem.wf = true →
    ∃ t, exec (.sta a) s = .next t ∧
      t.mar = a ∧ t.gpr = s.acc ∧ t.acc = s.acc ∧ t.pc = s.pc + 1 ∧ t.opr = 3 ∧
      t.step = 6 ∧ t.cw = 0x000008 ∧
      t.flg = (s.flg &&& 1) ||| (if s.acc = 0 then 2 else 0) ∧
      t.halted = false ∧ t.cfg = s.cfg ∧
      t.memoryView a = s.acc ∧ ∀ b, b ≠ a → t.memoryView b = s.memoryView b

/-- R230, R231: `JMP A` and `JMPI A`. -/
def Obligations.JumpsSetThePc : Prop :=
  ∀ (a : Addr) (s : State), OnReferenceLayout s → s.halted = false →
    (∃ t, exec (.jmp a) s = .next t ∧
      t.pc = a ∧ t.gpr = 0x400 ||| a.setWidth 12 ∧ t.mar = s.pc ∧ t.acc = s.acc ∧ t.opr = 4 ∧
      t.step = 4 ∧ t.cw = 0x000010 ∧ t.flg = s.flg &&& 1 ∧
      t.halted = false ∧ t.mem = s.mem ∧ t.cfg = s.cfg) ∧
    (∃ t, exec (.jmpi a) s = .next t ∧
      t.pc = (s.mem.read a).setWidth 8 ∧ t.gpr = s.mem.read a ∧ t.mar = a ∧ t.acc = s.acc ∧ t.opr = 5 ∧
      t.step = 6 ∧ t.cw = 0x000010 ∧
      t.flg = (s.flg &&& 1) ||| (if s.mem.read a = 0 then 2 else 0) ∧
      t.halted = false ∧ t.mem = s.mem ∧ t.cfg = s.cfg)

/-- R232: `CSR A` stores `0x600 | return address` at A and goes on at A + 1; every other word of memory is
unchanged. -/
def Obligations.CsrCallsThroughALinkWord : Prop :=
  ∀ (a : Addr) (s : State), OnReferenceLayout s → s.halted = false → s.mem.wf = true →
    let link : Word := 0x600 ||| (s.pc + 1).setWidth 12
    ∃ t, exec (.csr a) s = .next t ∧
      t.pc = a + 1 ∧ t.gpr = link ∧ t.mar = a ∧ t.acc = s.acc ∧ t.opr = 6 ∧
      t.step = 6 ∧ t.cw = 0x000028 ∧ t.flg = s.flg &&& 1 ∧
      t.halted = false ∧ t.cfg = s.cfg ∧
      t.memoryView a = link ∧ ∀ b, b ≠ a → t.memoryView b = s.memoryView b

/-- R233: `ISZ A` increments the word at A and skips the next instruction exactly if the result is 0;
every other word of memory is unchanged. -/
def Obligations.IszIncrementsAndSkips : Prop :=
  ∀ (a : Addr) (s : State), OnReferenceLayout s → s.halted = false → s.mem.wf = true →
    let v : Word := s.mem.read a + 1
    ∃ t, exec (.isz a) s = .next t ∧
      t.pc = (if v = 0 then s.pc + 2 else s.pc + 1) ∧ t.gpr = v ∧ t.mar = a ∧ t.acc = s.acc ∧
      t.opr = 7 ∧ t.step = 8 ∧ t.cw = (if v = 0 then 0x040020 else 0x040000) ∧
      t.flg = (s.flg &&& 1) ||| (if v = 0 then 2 else 0) ∧
      t.halted = false ∧ t.cfg = s.cfg ∧
      t.memoryView a = v ∧ ∀ b, b ≠ a → t.memoryView b = s.memoryView b

/-- R234, R235, R236: clear, complement and increment the accumulator; the operand field is ignored. -/
def Obligations.AccumulatorInstructions : Prop :=
  ∀ (a : Addr) (s : State), OnReferenceLayout s → s.halted = false →
    (∃ t, exec (.cra a) s = .next t ∧ t.acc = 0 ∧ t.gpr = 0x800 ||| a.setWidth 12 ∧ t.opr = 8 ∧
      t.cw = 0x001000 ∧ t.pc = s.pc + 1 ∧ t.mar = s.pc ∧ t.step = 4 ∧ t.flg = s.flg &&& 1 ∧
      t.halted = false ∧ t.mem = s.mem ∧ t.cfg = s.cfg) ∧
    (∃ t, exec (.cta a) s = .next t ∧ t.acc = ~~~s.acc ∧ t.gpr = 0x900 ||| a.setWidth 12 ∧ t.opr = 9 ∧
      t.cw = 0x000400 ∧ t.pc = s.pc + 1 ∧ t.mar = s.pc ∧ t.step = 4 ∧ t.flg = s.flg &&& 1 ∧
      t.halted = false ∧ t.mem = s.mem ∧ t.cfg = s.cfg) ∧
    (∃ t, exec (.ita a) s = .next t ∧ t.acc = s.acc + 1 ∧ t.gpr = 0xA00 ||| a.setWidth 12 ∧ t.opr = 10 ∧
      t.cw = 0x000080 ∧ t.pc = s.pc + 1 ∧ t.mar = s.pc ∧ t.step = 4 ∧ t.flg = s.flg &&& 1 ∧
      t.halted = false ∧ t.mem = s.mem ∧ t.cfg = s.cfg)

/-- R237, R238, R239: clear F, complement F, and skip the next instruction if F is 0; Z is 0 after each,
since the fetched word is not. -/
def Obligations.FlagInstructions : Prop :=
  ∀ (a : Addr) (s : State), OnReferenceLayout s → s.halted = false →
    (∃ t, exec (.crf a) s = .next t ∧ t.flg = 0 ∧ t.gpr = 0xB00 ||| a.setWidth 12 ∧ t.opr = 11 ∧
      t.cw = 0x002000 ∧ t.pc = s.pc + 1 ∧ t.acc = s.acc ∧ t.mar = s.pc ∧ t.step = 4 ∧
      t.halted = false ∧ t.mem = s.mem ∧ t.cfg = s.cfg) ∧
    (∃ t, exec (.ctf a) s = .next t ∧ t.flg = (if s.flg.getLsbD 0 then 0 else 1) ∧
      t.gpr = 0xC00 ||| a.setWidth 12 ∧ t.opr = 12 ∧
      t.cw = 0x000800 ∧ t.pc = s.pc + 1 ∧ t.acc = s.acc ∧ t.mar = s.pc ∧ t.step = 4 ∧
      t.halted = false ∧ t.mem = s.mem ∧ t.cfg = s.cfg) ∧
    (∃ t, exec (.sfz a) s = .next t ∧ t.pc = (if s.flg.getLsbD 0 then s.pc + 1 else s.pc + 2) ∧
      t.gpr = 0xD00 ||| a.setWidth 12 ∧ t.opr = 13 ∧ t.flg = s.flg &&& 1 ∧
      t.cw = (if s.flg.getLsbD 0 then 0x020000 else 0x020020) ∧
      t.acc = s.acc ∧ t.mar = s.pc ∧ t.step = 4 ∧
      t.halted = false ∧ t.mem = s.mem ∧ t.cfg = s.cfg)

/-- R240, R241: the rotate instructions, bit by bit; F takes the bit that leaves, Z is 0. -/
def Obligations.RotateInstructions : Prop :=
  ∀ (a : Addr) (s : State), OnReferenceLayout s → s.halted = false →
    (∃ t, exec (.ror a) s = .next t ∧
      (∀ k : Nat, k < 11 → t.acc.getLsbD k = s.acc.getLsbD (k + 1)) ∧
      t.acc.getLsbD 11 = s.flg.getLsbD 0 ∧ t.flg = (if s.acc.getLsbD 0 then 1 else 0) ∧
      t.gpr = 0xE00 ||| a.setWidth 12 ∧ t.opr = 14 ∧ t.cw = 0x008000 ∧ t.pc = s.pc + 1 ∧
      t.mar = s.pc ∧ t.step = 4 ∧ t.halted = false ∧ t.mem = s.mem ∧ t.cfg = s.cfg) ∧
    (∃ t, exec (.rol a) s = .next t ∧
      (∀ k : Nat, 1 ≤ k → k < 12 → t.acc.getLsbD k = s.acc.getLsbD (k - 1)) ∧
      t.acc.getLsbD 0 = s.flg.getLsbD 0 ∧ t.flg = (if s.acc.getLsbD 11 then 1 else 0) ∧
      t.gpr = 0xF00 ||| a.setWidth 12 ∧ t.opr = 15 ∧ t.cw = 0x004000 ∧ t.pc = s.pc + 1 ∧
      t.mar = s.pc ∧ t.step = 4 ∧ t.halted = false ∧ t.mem = s.mem ∧ t.cfg = s.cfg)

/-- R226: `HLT` halts after its fetch; only the fetched word's fields, CW and HALTED are written. -/
def Obligations.HltHaltsAfterItsFetch : Prop :=
  ∀ (a : Addr) (s : State), OnReferenceLayout s → s.halted = false →
    ∃ t, exec (.hlt a) s = .next t ∧
      t.halted = true ∧ t.pc = s.pc + 1 ∧ t.gpr = a.setWidth 12 ∧ t.mar = s.pc ∧ t.opr = 0 ∧
      t.step = 3 ∧ t.cw = 0x100000 ∧ t.acc = s.acc ∧
      t.flg = (s.flg &&& 1) ||| (if a = 0 then 2 else 0) ∧ t.mem = s.mem ∧ t.cfg = s.cfg

/-! ## Runs of pulses: the headline statements -/

/-- 45_sequencer.md R205, 46_reference_microprogram.md R225: three pulses from an instruction boundary on
the reference table fetch the word at PC. -/
def Obligations.ThreePulsesFetchTheInstruction : Prop :=
  ∀ s : State, OnReference s → s.halted = false → AtBoundary s →
    ∃ t, Host.Core.run Sys2Proof.core 3 s = .next t ∧
      t.opr = (s.mem.read s.pc).extractLsb' 8 4 ∧ t.pc = s.pc + 1 ∧ t.step = 3 ∧
      t.gpr = s.mem.read s.pc ∧ t.mar = s.pc ∧
      t.flg = (s.flg &&& 1) ||| (if s.mem.read s.pc = 0 then 2 else 0) ∧
      t.acc = s.acc ∧ t.mem = s.mem ∧ t.halted = false ∧ t.cfg = s.cfg

/-- The microprogram realises the instruction (46_reference_microprogram.md R224 to R241, R243): from
every instruction boundary on the reference table, the pulses of the word at PC, counted as in R243, end
in exactly the state the instruction's meaning gives; and unless it halted that is a boundary again. -/
def Obligations.PulsesRunTheInstructionAtPc : Prop :=
  ∀ s : State, OnReference s → s.halted = false → AtBoundary s →
    ∃ t, Host.Core.run Sys2Proof.core (pulsesOf (s.mem.read s.pc)) s = .next t ∧
      exec (decodeInstructionWord (s.mem.read s.pc)) s = .next t ∧
      (t.halted = true ↔ opcodeField (s.mem.read s.pc) = 0) ∧ (t.halted = false → AtBoundary t)

/-- R224, 60_exceptions.md R260, R266: on the reference table a machine within its window always
completes its pulse and stays within it: it is never stuck and never refused. -/
def Obligations.ReferenceMachineNeverSticks : Prop :=
  ∀ s : State, OnReference s → WithinWindow s →
    ∃ t, step s = .next t ∧ OnReference t ∧ WithinWindow t

/-- Every constructed machine and every machine after `reset()` is within its window. -/
def Obligations.ResetStatesAreWithinTheWindow : Prop :=
  OnReference State.reset ∧ WithinWindow State.reset ∧
  (∀ cfg s, construct cfg = .next s → WithinWindow s) ∧
  (∀ r s, State.hostReset r = .next s → WithinWindow s)

/-- 40_clock_phases.md R117, R123: where every effective word that latches the bus also drives it, the
free bus value is never observed: machines that agree but for BUS, SUM and the draws taken go on to
agree, pulse after pulse. -/
def Obligations.TheBusDrawIsNeverObserved : Prop :=
  ∀ (n : Nat) (s t : State), DrivesWhatItLatches s.cfg → SameButBus s t →
    OutcomesAgree SameButBus (Host.Core.run Sys2Proof.core n s) (Host.Core.run Sys2Proof.core n t)

/-- 46_reference_microprogram.md R224: the reference table is well formed for every admissible image, and
drives whatever it latches. -/
def Obligations.TheReferenceTableIsWellFormed : Prop :=
  ∀ image : List Nat,
    (configRefusal (referenceConfig image) = none ↔
      image.length ≤ 256 ∧ ∀ v ∈ image, v < 4096) ∧
    DrivesWhatItLatches (referenceConfig image)
end

