-- ==== Sys2Proof/Laws/Flags.lean ====
section
/-!
SUPPORT. The flag computations bit by bit: one lemma for each flag of each function of
Machine/Flags.lean, and the accumulator's bits after a rotation.
-/

namespace Sys2Proof.Machine

/-- The flag register is its two flags. -/
theorem flags_ext {a b : FlagBits} (hf : flagF a = flagF b) (hz : flagZ a = flagZ b) : a = b := by
  revert a b
  decide

@[simp] theorem flagF_recomputeZ (g : Word) (flg : FlagBits) : flagF (recomputeZ g flg) = flagF flg := by
  unfold recomputeZ
  split <;> (revert flg; decide)

@[simp] theorem flagZ_recomputeZ (g : Word) (flg : FlagBits) :
    flagZ (recomputeZ g flg) = decide (g = 0) := by
  unfold recomputeZ
  split
  · rename_i h; rw [decide_eq_true h]; revert flg; decide
  · rename_i h; rw [decide_eq_false h]; revert flg; decide

@[simp] theorem flagF_complementF (flg : FlagBits) : flagF (complementF flg) = !flagF flg := by
  revert flg; decide

@[simp] theorem flagZ_complementF (flg : FlagBits) : flagZ (complementF flg) = flagZ flg := by
  revert flg; decide

@[simp] theorem flagF_clearF (flg : FlagBits) : flagF (clearF flg) = false := by
  revert flg; decide

@[simp] theorem flagZ_clearF (flg : FlagBits) : flagZ (clearF flg) = flagZ flg := by
  revert flg; decide

@[simp] theorem flagF_rotateLeftFlg (a : Word) (flg : FlagBits) :
    flagF (rotateLeftFlg a flg) = a.getLsbD 11 := by
  unfold rotateLeftFlg
  generalize a.getLsbD 11 = b
  revert flg b; decide

@[simp] theorem flagZ_rotateLeftFlg (a : Word) (flg : FlagBits) :
    flagZ (rotateLeftFlg a flg) = flagZ flg := by
  unfold rotateLeftFlg
  generalize a.getLsbD 11 = b
  revert flg b; decide

@[simp] theorem flagF_rotateRightFlg (a : Word) (flg : FlagBits) :
    flagF (rotateRightFlg a flg) = a.getLsbD 0 := by
  unfold rotateRightFlg
  generalize a.getLsbD 0 = b
  revert flg b; decide

@[simp] theorem flagZ_rotateRightFlg (a : Word) (flg : FlagBits) :
    flagZ (rotateRightFlg a flg) = flagZ flg := by
  unfold rotateRightFlg
  generalize a.getLsbD 0 = b
  revert flg b; decide

/-- After a rotate left, bit 0 is the old F and every other bit is the one below it. -/
theorem getLsbD_rotateLeftAcc (a : Word) (flg : FlagBits) {k : Nat} (hk : k < 12) :
    (rotateLeftAcc a flg).getLsbD k = if k = 0 then flagF flg else a.getLsbD (k - 1) := by
  unfold rotateLeftAcc
  generalize flagF flg = b
  interval_cases k <;> cases b <;> simp [bitWord]

/-- After a rotate right, bit 11 is the old F and every other bit is the one above it. -/
theorem getLsbD_rotateRightAcc (a : Word) (flg : FlagBits) {k : Nat} (hk : k < 12) :
    (rotateRightAcc a flg).getLsbD k = if k = 11 then flagF flg else a.getLsbD (k + 1) := by
  unfold rotateRightAcc
  generalize flagF flg = b
  interval_cases k <;> cases b <;> simp [bitWord]

end Sys2Proof.Machine
end

