-- ==== Sys2Proof/Laws/Memory.lean ====
section
/-!
SUPPORT. The canonical form of the memory list: every operation keeps it, the image is laid out in it,
and below its first address a canonical memory reads as 0.
-/

namespace Sys2Proof.Machine

/-- A cell is canonical from `lo` on, and the rest from the next address on. -/
theorem Memory.wfFrom_cons {lo k : Nat} {x : Word} {rest : Memory} :
    Memory.wfFrom lo ((k, x) :: rest) = true ↔
      lo ≤ k ∧ k < 256 ∧ x ≠ 0 ∧ Memory.wfFrom (k + 1) rest = true := by
  simp [Memory.wfFrom, Config.memSize, and_assoc]

/-- A canonical memory is canonical from any lower address. -/
theorem Memory.wfFrom_mono {lo lo' : Nat} {m : Memory} (h : lo' ≤ lo) (hm : Memory.wfFrom lo m = true) :
    Memory.wfFrom lo' m = true := by
  cases m with
  | nil => rfl
  | cons c rest =>
    obtain ⟨k, x⟩ := c
    rw [Memory.wfFrom_cons] at hm ⊢
    exact ⟨by omega, hm.2.1, hm.2.2.1, hm.2.2.2⟩

/-- A write at or above `lo` keeps the form. -/
theorem Memory.write_wfFrom {lo : Nat} {m : Memory} {a : Addr} (v : Word) (ha : lo ≤ a.toNat)
    (hm : Memory.wfFrom lo m = true) : Memory.wfFrom lo (m.write a v) = true := by
  have hlt : a.toNat < 256 := a.isLt
  induction m generalizing lo with
  | nil =>
    rw [Memory.write]
    split_ifs with hv
    · rfl
    · exact Memory.wfFrom_cons.2 ⟨ha, hlt, hv, rfl⟩
  | cons c rest ih =>
    obtain ⟨k, x⟩ := c
    rw [Memory.wfFrom_cons] at hm
    obtain ⟨h1, h2, h3, h4⟩ := hm
    simp only [Memory.write]
    split_ifs with hk hv he hv
    · exact Memory.wfFrom_cons.2 ⟨h1, h2, h3, h4⟩
    · exact Memory.wfFrom_cons.2 ⟨ha, hlt, hv, Memory.wfFrom_cons.2 ⟨by omega, h2, h3, h4⟩⟩
    · exact Memory.wfFrom_mono (by omega) h4
    · exact Memory.wfFrom_cons.2 ⟨h1, h2, hv, h4⟩
    · exact Memory.wfFrom_cons.2 ⟨h1, h2, h3, ih (by omega) h4⟩

/-- Every write keeps the canonical form. -/
theorem Memory.write_wf {m : Memory} (hm : m.wf = true) (a : Addr) (v : Word) : (m.write a v).wf = true :=
  Memory.write_wfFrom v (Nat.zero_le _) hm

/-- Below the first address a canonical memory reads as 0. -/
theorem Memory.read_below {lo : Nat} {m : Memory} {a : Addr} (ha : a.toNat < lo)
    (hm : Memory.wfFrom lo m = true) : m.read a = 0 := by
  induction m generalizing lo with
  | nil => rfl
  | cons c rest ih =>
    obtain ⟨k, x⟩ := c
    rw [Memory.wfFrom_cons] at hm
    rw [Memory.read, if_neg (by omega)]
    exact ih (by omega) hm.2.2.2

/-- The image is laid out in canonical form. -/
theorem Memory.ofImageFrom_wfFrom {image : List Nat} {k : Nat} (h : k + image.length ≤ 256) :
    Memory.wfFrom k (Memory.ofImageFrom k image) = true := by
  induction image generalizing k with
  | nil => rfl
  | cons v rest ih =>
    simp only [List.length_cons] at h
    have hrest := ih (k := k + 1) (by omega)
    simp only [Memory.ofImageFrom]
    split_ifs with hv
    · exact Memory.wfFrom_mono (by omega) hrest
    · exact Memory.wfFrom_cons.2 ⟨le_refl k, by omega, hv, hrest⟩

end Sys2Proof.Machine
end

