-- ==== Sys2Proof/Laws/PerInstr.lean ====
section
/-!
SUPPORT. Statements made per instruction. `EncodingFitsTable`: the word of the encoder carries the
mask and match of the instruction's row in spec/opcode_table.json, copied here number by number, for
every value of the operands.
-/

open Sys2Proof Sys2Proof.Machine

namespace Sys2Proof.Laws

/-- The mask and the match of a table row, in the width of its format; `noWord` is "match none". -/
inductive TableRow where
  | cw (mask pattern : ControlWord)
  | ix (mask pattern : RowIndex)
  | iw (mask pattern : Word)
  | noWord
  deriving DecidableEq, Repr

/-- The row of each constructor. -/
def tableRow : Instr → TableRow
  | .tPcMar => .cw 0x000001 0x000001
  | .tMGpr => .cw 0x000002 0x000002
  | .tGprMar => .cw 0x000004 0x000004
  | .tGprM => .cw 0x000008 0x000008
  | .tGprPc => .cw 0x000010 0x000010
  | .ipc => .cw 0x000020 0x000020
  | .igpr => .cw 0x000040 0x000040
  | .iacc => .cw 0x000080 0x000080
  | .aA2g => .cw 0x000100 0x000100
  | .aAdd => .cw 0x000200 0x000200
  | .aCma => .cw 0x000400 0x000400
  | .aCmf => .cw 0x000800 0x000800
  | .aCla => .cw 0x001000 0x001000
  | .aClf => .cw 0x002000 0x002000
  | .aRol => .cw 0x004000 0x004000
  | .aRor => .cw 0x008000 0x008000
  | .aOut => .cw 0x010000 0x010000
  | .ipcF0 => .cw 0x020000 0x020000
  | .ipcZ1 => .cw 0x040000 0x040000
  | .clrSc => .cw 0x080000 0x080000
  | .halt => .cw 0x100000 0x100000
  | .swap => .cw 0xFFFFFF 0x600000
  | .extract => .cw 0xFFFFFF 0x800000
  | .nopWord => .cw 0xFFFFFF 0x000000
  | .ixFetch _ => .ix 0x7C 0x00
  | .ixExec _ _ => .ix 0x00 0x00
  | .ixExecHalt _ => .ix 0x7C 0x04
  | .ixOverrun => .noWord
  | .hlt _ => .iw 0xF00 0x000
  | .add _ => .iw 0xF00 0x100
  | .addi _ => .iw 0xF00 0x200
  | .sta _ => .iw 0xF00 0x300
  | .jmp _ => .iw 0xF00 0x400
  | .jmpi _ => .iw 0xF00 0x500
  | .csr _ => .iw 0xF00 0x600
  | .isz _ => .iw 0xF00 0x700
  | .cra _ => .iw 0xF00 0x800
  | .cta _ => .iw 0xF00 0x900
  | .ita _ => .iw 0xF00 0xA00
  | .crf _ => .iw 0xF00 0xB00
  | .ctf _ => .iw 0xF00 0xC00
  | .sfz _ => .iw 0xF00 0xD00
  | .ror _ => .iw 0xF00 0xE00
  | .rol _ => .iw 0xF00 0xF00

/-- The word fits the row. -/
def TableRow.fits : TableRow → Option Encoded → Prop
  | .cw mask pattern, some (.cw w) => w &&& mask = pattern
  | .ix mask pattern, some (.ix i) => i &&& mask = pattern
  | .iw mask pattern, some (.iw w) => w &&& mask = pattern
  | .noWord, none => True
  | _, _ => False

/-- The opcode of a built instruction word stands under the mask 0xF00, whatever the operand. -/
theorem instructionWord_opcode_bits (o : Opcode) (a : Addr) :
    instructionWord o a &&& 0xF00 = o.setWidth 12 <<< 8 := by
  unfold instructionWord Config.opcodeLsb
  ext k hk
  simp only [BitVec.getElem_and, BitVec.getElem_or, BitVec.getElem_shiftLeft, BitVec.getElem_setWidth]
  interval_cases k <;> simp

end Sys2Proof.Laws

namespace Sys2Proof.Laws.EncodingFitsTable

/-- The encoder's word for this instruction has its row's match under its row's mask. -/
def Statement (i : Instr) : Prop := (tableRow i).fits (encode i)

theorem tPcMar : Statement .tPcMar := rfl
theorem tMGpr : Statement .tMGpr := rfl
theorem tGprMar : Statement .tGprMar := rfl
theorem tGprM : Statement .tGprM := rfl
theorem tGprPc : Statement .tGprPc := rfl
theorem ipc : Statement .ipc := rfl
theorem igpr : Statement .igpr := rfl
theorem iacc : Statement .iacc := rfl
theorem aA2g : Statement .aA2g := rfl
theorem aAdd : Statement .aAdd := rfl
theorem aCma : Statement .aCma := rfl
theorem aCmf : Statement .aCmf := rfl
theorem aCla : Statement .aCla := rfl
theorem aClf : Statement .aClf := rfl
theorem aRol : Statement .aRol := rfl
theorem aRor : Statement .aRor := rfl
theorem aOut : Statement .aOut := rfl
theorem ipcF0 : Statement .ipcF0 := rfl
theorem ipcZ1 : Statement .ipcZ1 := rfl
theorem clrSc : Statement .clrSc := rfl
theorem halt : Statement .halt := rfl
theorem swap : Statement .swap := rfl
theorem extract : Statement .extract := rfl
theorem nopWord : Statement .nopWord := rfl
theorem ixOverrun : Statement .ixOverrun := trivial
theorem hlt (a : Addr) : Statement (.hlt a) := instructionWord_opcode_bits _ a
theorem add (a : Addr) : Statement (.add a) := instructionWord_opcode_bits _ a
theorem addi (a : Addr) : Statement (.addi a) := instructionWord_opcode_bits _ a
theorem sta (a : Addr) : Statement (.sta a) := instructionWord_opcode_bits _ a
theorem jmp (a : Addr) : Statement (.jmp a) := instructionWord_opcode_bits _ a
theorem jmpi (a : Addr) : Statement (.jmpi a) := instructionWord_opcode_bits _ a
theorem csr (a : Addr) : Statement (.csr a) := instructionWord_opcode_bits _ a
theorem isz (a : Addr) : Statement (.isz a) := instructionWord_opcode_bits _ a
theorem cra (a : Addr) : Statement (.cra a) := instructionWord_opcode_bits _ a
theorem cta (a : Addr) : Statement (.cta a) := instructionWord_opcode_bits _ a
theorem ita (a : Addr) : Statement (.ita a) := instructionWord_opcode_bits _ a
theorem crf (a : Addr) : Statement (.crf a) := instructionWord_opcode_bits _ a
theorem ctf (a : Addr) : Statement (.ctf a) := instructionWord_opcode_bits _ a
theorem sfz (a : Addr) : Statement (.sfz a) := instructionWord_opcode_bits _ a
theorem ror (a : Addr) : Statement (.ror a) := instructionWord_opcode_bits _ a
theorem rol (a : Addr) : Statement (.rol a) := instructionWord_opcode_bits _ a

theorem ixFetch (step : BitVec 2) : Statement (.ixFetch step) := by
  show (step.setWidth 7 : RowIndex) &&& 0x7C = 0x00
  revert step
  decide

theorem ixExec (opcode : Opcode) (slot : BitVec 3) : Statement (.ixExec opcode slot) := by
  show (opcode.setWidth 7 <<< Config.slotWidth ||| slot.setWidth 7 : RowIndex) &&& 0x00 = 0x00
  revert opcode slot
  decide

theorem ixExecHalt (slot : Slot) : Statement (.ixExecHalt slot) := by
  show (BitVec.ofNat 7 Config.haltBit ||| slot.setWidth 7 : RowIndex) &&& 0x7C = 0x04
  revert slot
  decide

end Sys2Proof.Laws.EncodingFitsTable
end

