-- ==== Sys2Proof/Laws/State.lean ====
section
/-!
SUPPORT. The named updates of the state, field by field: what each one writes and that it leaves every
other field alone. All hold by unfolding one record update.
-/

namespace Sys2Proof.Machine

/-! ### Writing and incrementing a register -/

/-- A register write keeps the low bits of the word. -/
@[simp] theorem registerWrite_toNat {m : Nat} (n : Nat) (v : BitVec m) :
    registerWrite n v.toNat = v.setWidth n := BitVec.ofNat_toNat n v

/-- An address driven on the bus and latched into an address register is that address. -/
@[simp] theorem registerWrite_driven_address (a : Addr) : registerWrite 8 (a.toNat % 4096) = a := by
  have : a.toNat < 256 := a.isLt
  rw [Nat.mod_eq_of_lt (by omega)]
  simp

@[simp] theorem writeReg_pc (s : State) (v : Word) :
    s.writeReg .pc v = { s with pc := registerWrite Config.wPc v.toNat } := rfl
@[simp] theorem incrementReg_pc (s : State) :
    s.incrementReg .pc = { s with pc := registerIncrement s.pc } := rfl
@[simp] theorem writeReg_gpr (s : State) (v : Word) :
    s.writeReg .gpr v = { s with gpr := registerWrite Config.wData v.toNat } := rfl
@[simp] theorem incrementReg_gpr (s : State) :
    s.incrementReg .gpr = { s with gpr := registerIncrement s.gpr } := rfl
@[simp] theorem writeReg_acc (s : State) (v : Word) :
    s.writeReg .acc v = { s with acc := registerWrite Config.wData v.toNat } := rfl
@[simp] theorem incrementReg_acc (s : State) :
    s.incrementReg .acc = { s with acc := registerIncrement s.acc } := rfl
@[simp] theorem writeReg_mar (s : State) (v : Word) :
    s.writeReg .mar v = { s with mar := registerWrite Config.wMar v.toNat } := rfl
@[simp] theorem incrementReg_mar (s : State) :
    s.incrementReg .mar = { s with mar := registerIncrement s.mar } := rfl
@[simp] theorem writeReg_flg (s : State) (v : Word) :
    s.writeReg .flg v = { s with flg := registerWrite Config.wFlg v.toNat } := rfl
@[simp] theorem incrementReg_flg (s : State) :
    s.incrementReg .flg = { s with flg := registerIncrement s.flg } := rfl
@[simp] theorem writeReg_opr (s : State) (v : Word) :
    s.writeReg .opr v = { s with opr := registerWrite Config.wOpc v.toNat } := rfl
@[simp] theorem incrementReg_opr (s : State) :
    s.incrementReg .opr = { s with opr := registerIncrement s.opr } := rfl
@[simp] theorem writeReg_step (s : State) (v : Word) :
    s.writeReg .step v = { s with step := registerWrite Config.wStep v.toNat } := rfl
@[simp] theorem incrementReg_step (s : State) :
    s.incrementReg .step = { s with step := registerIncrement s.step } := rfl
@[simp] theorem writeReg_keeps_cw (s : State) (r : RegName) (v : Word) : (s.writeReg r v).cw = s.cw := by
  cases r <;> rfl
@[simp] theorem incrementReg_keeps_cw (s : State) (r : RegName) : (s.incrementReg r).cw = s.cw := by
  cases r <;> rfl
@[simp] theorem writeReg_keeps_halted (s : State) (r : RegName) (v : Word) : (s.writeReg r v).halted = s.halted := by
  cases r <;> rfl
@[simp] theorem incrementReg_keeps_halted (s : State) (r : RegName) : (s.incrementReg r).halted = s.halted := by
  cases r <;> rfl
@[simp] theorem writeReg_keeps_mem (s : State) (r : RegName) (v : Word) : (s.writeReg r v).mem = s.mem := by
  cases r <;> rfl
@[simp] theorem incrementReg_keeps_mem (s : State) (r : RegName) : (s.incrementReg r).mem = s.mem := by
  cases r <;> rfl
@[simp] theorem writeReg_keeps_bus (s : State) (r : RegName) (v : Word) : (s.writeReg r v).bus = s.bus := by
  cases r <;> rfl
@[simp] theorem incrementReg_keeps_bus (s : State) (r : RegName) : (s.incrementReg r).bus = s.bus := by
  cases r <;> rfl
@[simp] theorem writeReg_keeps_sum (s : State) (r : RegName) (v : Word) : (s.writeReg r v).sum = s.sum := by
  cases r <;> rfl
@[simp] theorem incrementReg_keeps_sum (s : State) (r : RegName) : (s.incrementReg r).sum = s.sum := by
  cases r <;> rfl
@[simp] theorem writeReg_keeps_cfg (s : State) (r : RegName) (v : Word) : (s.writeReg r v).cfg = s.cfg := by
  cases r <;> rfl
@[simp] theorem incrementReg_keeps_cfg (s : State) (r : RegName) : (s.incrementReg r).cfg = s.cfg := by
  cases r <;> rfl
@[simp] theorem writeReg_keeps_draws (s : State) (r : RegName) (v : Word) : (s.writeReg r v).draws = s.draws := by
  cases r <;> rfl
@[simp] theorem incrementReg_keeps_draws (s : State) (r : RegName) : (s.incrementReg r).draws = s.draws := by
  cases r <;> rfl

/-! ### Operations of the ALU, the router, the memory and the control unit -/

@[simp] theorem accToGpr_pc (s : State) : s.accToGpr.pc = s.pc := rfl
@[simp] theorem accToGpr_gpr (s : State) : s.accToGpr.gpr = s.acc := rfl
@[simp] theorem accToGpr_acc (s : State) : s.accToGpr.acc = s.acc := rfl
@[simp] theorem accToGpr_mar (s : State) : s.accToGpr.mar = s.mar := rfl
@[simp] theorem accToGpr_flg (s : State) : s.accToGpr.flg = s.flg := rfl
@[simp] theorem accToGpr_opr (s : State) : s.accToGpr.opr = s.opr := rfl
@[simp] theorem accToGpr_step (s : State) : s.accToGpr.step = s.step := rfl
@[simp] theorem accToGpr_cw (s : State) : s.accToGpr.cw = s.cw := rfl
@[simp] theorem accToGpr_halted (s : State) : s.accToGpr.halted = s.halted := rfl
@[simp] theorem accToGpr_mem (s : State) : s.accToGpr.mem = s.mem := rfl
@[simp] theorem accToGpr_bus (s : State) : s.accToGpr.bus = s.bus := rfl
@[simp] theorem accToGpr_sum (s : State) : s.accToGpr.sum = s.sum := rfl
@[simp] theorem accToGpr_cfg (s : State) : s.accToGpr.cfg = s.cfg := rfl
@[simp] theorem accToGpr_draws (s : State) : s.accToGpr.draws = s.draws := rfl
@[simp] theorem commitSum_pc (s : State) : s.commitSum.pc = s.pc := rfl
@[simp] theorem commitSum_gpr (s : State) : s.commitSum.gpr = s.gpr := rfl
@[simp] theorem commitSum_acc (s : State) : s.commitSum.acc = s.sum := rfl
@[simp] theorem commitSum_mar (s : State) : s.commitSum.mar = s.mar := rfl
@[simp] theorem commitSum_flg (s : State) : s.commitSum.flg = s.flg := rfl
@[simp] theorem commitSum_opr (s : State) : s.commitSum.opr = s.opr := rfl
@[simp] theorem commitSum_step (s : State) : s.commitSum.step = s.step := rfl
@[simp] theorem commitSum_cw (s : State) : s.commitSum.cw = s.cw := rfl
@[simp] theorem commitSum_halted (s : State) : s.commitSum.halted = s.halted := rfl
@[simp] theorem commitSum_mem (s : State) : s.commitSum.mem = s.mem := rfl
@[simp] theorem commitSum_bus (s : State) : s.commitSum.bus = s.bus := rfl
@[simp] theorem commitSum_sum (s : State) : s.commitSum.sum = s.sum := rfl
@[simp] theorem commitSum_cfg (s : State) : s.commitSum.cfg = s.cfg := rfl
@[simp] theorem commitSum_draws (s : State) : s.commitSum.draws = s.draws := rfl
@[simp] theorem complementAcc_pc (s : State) : s.complementAcc.pc = s.pc := rfl
@[simp] theorem complementAcc_gpr (s : State) : s.complementAcc.gpr = s.gpr := rfl
@[simp] theorem complementAcc_acc (s : State) : s.complementAcc.acc = ~~~s.acc := rfl
@[simp] theorem complementAcc_mar (s : State) : s.complementAcc.mar = s.mar := rfl
@[simp] theorem complementAcc_flg (s : State) : s.complementAcc.flg = s.flg := rfl
@[simp] theorem complementAcc_opr (s : State) : s.complementAcc.opr = s.opr := rfl
@[simp] theorem complementAcc_step (s : State) : s.complementAcc.step = s.step := rfl
@[simp] theorem complementAcc_cw (s : State) : s.complementAcc.cw = s.cw := rfl
@[simp] theorem complementAcc_halted (s : State) : s.complementAcc.halted = s.halted := rfl
@[simp] theorem complementAcc_mem (s : State) : s.complementAcc.mem = s.mem := rfl
@[simp] theorem complementAcc_bus (s : State) : s.complementAcc.bus = s.bus := rfl
@[simp] theorem complementAcc_sum (s : State) : s.complementAcc.sum = s.sum := rfl
@[simp] theorem complementAcc_cfg (s : State) : s.complementAcc.cfg = s.cfg := rfl
@[simp] theorem complementAcc_draws (s : State) : s.complementAcc.draws = s.draws := rfl
@[simp] theorem complementFlagF_pc (s : State) : s.complementFlagF.pc = s.pc := rfl
@[simp] theorem complementFlagF_gpr (s : State) : s.complementFlagF.gpr = s.gpr := rfl
@[simp] theorem complementFlagF_acc (s : State) : s.complementFlagF.acc = s.acc := rfl
@[simp] theorem complementFlagF_mar (s : State) : s.complementFlagF.mar = s.mar := rfl
@[simp] theorem complementFlagF_flg (s : State) : s.complementFlagF.flg = complementF s.flg := rfl
@[simp] theorem complementFlagF_opr (s : State) : s.complementFlagF.opr = s.opr := rfl
@[simp] theorem complementFlagF_step (s : State) : s.complementFlagF.step = s.step := rfl
@[simp] theorem complementFlagF_cw (s : State) : s.complementFlagF.cw = s.cw := rfl
@[simp] theorem complementFlagF_halted (s : State) : s.complementFlagF.halted = s.halted := rfl
@[simp] theorem complementFlagF_mem (s : State) : s.complementFlagF.mem = s.mem := rfl
@[simp] theorem complementFlagF_bus (s : State) : s.complementFlagF.bus = s.bus := rfl
@[simp] theorem complementFlagF_sum (s : State) : s.complementFlagF.sum = s.sum := rfl
@[simp] theorem complementFlagF_cfg (s : State) : s.complementFlagF.cfg = s.cfg := rfl
@[simp] theorem complementFlagF_draws (s : State) : s.complementFlagF.draws = s.draws := rfl
@[simp] theorem clearAcc_pc (s : State) : s.clearAcc.pc = s.pc := rfl
@[simp] theorem clearAcc_gpr (s : State) : s.clearAcc.gpr = s.gpr := rfl
@[simp] theorem clearAcc_acc (s : State) : s.clearAcc.acc = 0 := rfl
@[simp] theorem clearAcc_mar (s : State) : s.clearAcc.mar = s.mar := rfl
@[simp] theorem clearAcc_flg (s : State) : s.clearAcc.flg = s.flg := rfl
@[simp] theorem clearAcc_opr (s : State) : s.clearAcc.opr = s.opr := rfl
@[simp] theorem clearAcc_step (s : State) : s.clearAcc.step = s.step := rfl
@[simp] theorem clearAcc_cw (s : State) : s.clearAcc.cw = s.cw := rfl
@[simp] theorem clearAcc_halted (s : State) : s.clearAcc.halted = s.halted := rfl
@[simp] theorem clearAcc_mem (s : State) : s.clearAcc.mem = s.mem := rfl
@[simp] theorem clearAcc_bus (s : State) : s.clearAcc.bus = s.bus := rfl
@[simp] theorem clearAcc_sum (s : State) : s.clearAcc.sum = s.sum := rfl
@[simp] theorem clearAcc_cfg (s : State) : s.clearAcc.cfg = s.cfg := rfl
@[simp] theorem clearAcc_draws (s : State) : s.clearAcc.draws = s.draws := rfl
@[simp] theorem clearFlagF_pc (s : State) : s.clearFlagF.pc = s.pc := rfl
@[simp] theorem clearFlagF_gpr (s : State) : s.clearFlagF.gpr = s.gpr := rfl
@[simp] theorem clearFlagF_acc (s : State) : s.clearFlagF.acc = s.acc := rfl
@[simp] theorem clearFlagF_mar (s : State) : s.clearFlagF.mar = s.mar := rfl
@[simp] theorem clearFlagF_flg (s : State) : s.clearFlagF.flg = clearF s.flg := rfl
@[simp] theorem clearFlagF_opr (s : State) : s.clearFlagF.opr = s.opr := rfl
@[simp] theorem clearFlagF_step (s : State) : s.clearFlagF.step = s.step := rfl
@[simp] theorem clearFlagF_cw (s : State) : s.clearFlagF.cw = s.cw := rfl
@[simp] theorem clearFlagF_halted (s : State) : s.clearFlagF.halted = s.halted := rfl
@[simp] theorem clearFlagF_mem (s : State) : s.clearFlagF.mem = s.mem := rfl
@[simp] theorem clearFlagF_bus (s : State) : s.clearFlagF.bus = s.bus := rfl
@[simp] theorem clearFlagF_sum (s : State) : s.clearFlagF.sum = s.sum := rfl
@[simp] theorem clearFlagF_cfg (s : State) : s.clearFlagF.cfg = s.cfg := rfl
@[simp] theorem clearFlagF_draws (s : State) : s.clearFlagF.draws = s.draws := rfl
@[simp] theorem rotateLeft_pc (s : State) : s.rotateLeft.pc = s.pc := rfl
@[simp] theorem rotateLeft_gpr (s : State) : s.rotateLeft.gpr = s.gpr := rfl
@[simp] theorem rotateLeft_acc (s : State) : s.rotateLeft.acc = rotateLeftAcc s.acc s.flg := rfl
@[simp] theorem rotateLeft_mar (s : State) : s.rotateLeft.mar = s.mar := rfl
@[simp] theorem rotateLeft_flg (s : State) : s.rotateLeft.flg = rotateLeftFlg s.acc s.flg := rfl
@[simp] theorem rotateLeft_opr (s : State) : s.rotateLeft.opr = s.opr := rfl
@[simp] theorem rotateLeft_step (s : State) : s.rotateLeft.step = s.step := rfl
@[simp] theorem rotateLeft_cw (s : State) : s.rotateLeft.cw = s.cw := rfl
@[simp] theorem rotateLeft_halted (s : State) : s.rotateLeft.halted = s.halted := rfl
@[simp] theorem rotateLeft_mem (s : State) : s.rotateLeft.mem = s.mem := rfl
@[simp] theorem rotateLeft_bus (s : State) : s.rotateLeft.bus = s.bus := rfl
@[simp] theorem rotateLeft_sum (s : State) : s.rotateLeft.sum = s.sum := rfl
@[simp] theorem rotateLeft_cfg (s : State) : s.rotateLeft.cfg = s.cfg := rfl
@[simp] theorem rotateLeft_draws (s : State) : s.rotateLeft.draws = s.draws := rfl
@[simp] theorem rotateRight_pc (s : State) : s.rotateRight.pc = s.pc := rfl
@[simp] theorem rotateRight_gpr (s : State) : s.rotateRight.gpr = s.gpr := rfl
@[simp] theorem rotateRight_acc (s : State) : s.rotateRight.acc = rotateRightAcc s.acc s.flg := rfl
@[simp] theorem rotateRight_mar (s : State) : s.rotateRight.mar = s.mar := rfl
@[simp] theorem rotateRight_flg (s : State) : s.rotateRight.flg = rotateRightFlg s.acc s.flg := rfl
@[simp] theorem rotateRight_opr (s : State) : s.rotateRight.opr = s.opr := rfl
@[simp] theorem rotateRight_step (s : State) : s.rotateRight.step = s.step := rfl
@[simp] theorem rotateRight_cw (s : State) : s.rotateRight.cw = s.cw := rfl
@[simp] theorem rotateRight_halted (s : State) : s.rotateRight.halted = s.halted := rfl
@[simp] theorem rotateRight_mem (s : State) : s.rotateRight.mem = s.mem := rfl
@[simp] theorem rotateRight_bus (s : State) : s.rotateRight.bus = s.bus := rfl
@[simp] theorem rotateRight_sum (s : State) : s.rotateRight.sum = s.sum := rfl
@[simp] theorem rotateRight_cfg (s : State) : s.rotateRight.cfg = s.cfg := rfl
@[simp] theorem rotateRight_draws (s : State) : s.rotateRight.draws = s.draws := rfl
@[simp] theorem deriveZ_pc (s : State) : s.deriveZ.pc = s.pc := rfl
@[simp] theorem deriveZ_gpr (s : State) : s.deriveZ.gpr = s.gpr := rfl
@[simp] theorem deriveZ_acc (s : State) : s.deriveZ.acc = s.acc := rfl
@[simp] theorem deriveZ_mar (s : State) : s.deriveZ.mar = s.mar := rfl
@[simp] theorem deriveZ_flg (s : State) : s.deriveZ.flg = recomputeZ s.gpr s.flg := rfl
@[simp] theorem deriveZ_opr (s : State) : s.deriveZ.opr = s.opr := rfl
@[simp] theorem deriveZ_step (s : State) : s.deriveZ.step = s.step := rfl
@[simp] theorem deriveZ_cw (s : State) : s.deriveZ.cw = s.cw := rfl
@[simp] theorem deriveZ_halted (s : State) : s.deriveZ.halted = s.halted := rfl
@[simp] theorem deriveZ_mem (s : State) : s.deriveZ.mem = s.mem := rfl
@[simp] theorem deriveZ_bus (s : State) : s.deriveZ.bus = s.bus := rfl
@[simp] theorem deriveZ_sum (s : State) : s.deriveZ.sum = s.sum := rfl
@[simp] theorem deriveZ_cfg (s : State) : s.deriveZ.cfg = s.cfg := rfl
@[simp] theorem deriveZ_draws (s : State) : s.deriveZ.draws = s.draws := rfl
@[simp] theorem swapPcGpr_pc (s : State) : s.swapPcGpr.pc = (operandField s.gpr).setWidth Config.wPc := rfl
@[simp] theorem swapPcGpr_gpr (s : State) : s.swapPcGpr.gpr = (s.gpr &&& 0xF00) ||| (s.pc.setWidth Config.wData &&& 0x0FF) := rfl
@[simp] theorem swapPcGpr_acc (s : State) : s.swapPcGpr.acc = s.acc := rfl
@[simp] theorem swapPcGpr_mar (s : State) : s.swapPcGpr.mar = s.mar := rfl
@[simp] theorem swapPcGpr_flg (s : State) : s.swapPcGpr.flg = s.flg := rfl
@[simp] theorem swapPcGpr_opr (s : State) : s.swapPcGpr.opr = s.opr := rfl
@[simp] theorem swapPcGpr_step (s : State) : s.swapPcGpr.step = s.step := rfl
@[simp] theorem swapPcGpr_cw (s : State) : s.swapPcGpr.cw = s.cw := rfl
@[simp] theorem swapPcGpr_halted (s : State) : s.swapPcGpr.halted = s.halted := rfl
@[simp] theorem swapPcGpr_mem (s : State) : s.swapPcGpr.mem = s.mem := rfl
@[simp] theorem swapPcGpr_bus (s : State) : s.swapPcGpr.bus = s.bus := rfl
@[simp] theorem swapPcGpr_sum (s : State) : s.swapPcGpr.sum = s.sum := rfl
@[simp] theorem swapPcGpr_cfg (s : State) : s.swapPcGpr.cfg = s.cfg := rfl
@[simp] theorem swapPcGpr_draws (s : State) : s.swapPcGpr.draws = s.draws := rfl
@[simp] theorem extractOpcode_pc (s : State) : s.extractOpcode.pc = s.pc := rfl
@[simp] theorem extractOpcode_gpr (s : State) : s.extractOpcode.gpr = s.gpr := rfl
@[simp] theorem extractOpcode_acc (s : State) : s.extractOpcode.acc = s.acc := rfl
@[simp] theorem extractOpcode_mar (s : State) : s.extractOpcode.mar = s.mar := rfl
@[simp] theorem extractOpcode_flg (s : State) : s.extractOpcode.flg = s.flg := rfl
@[simp] theorem extractOpcode_opr (s : State) : s.extractOpcode.opr = opcodeField s.gpr := rfl
@[simp] theorem extractOpcode_step (s : State) : s.extractOpcode.step = s.step := rfl
@[simp] theorem extractOpcode_cw (s : State) : s.extractOpcode.cw = s.cw := rfl
@[simp] theorem extractOpcode_halted (s : State) : s.extractOpcode.halted = s.halted := rfl
@[simp] theorem extractOpcode_mem (s : State) : s.extractOpcode.mem = s.mem := rfl
@[simp] theorem extractOpcode_bus (s : State) : s.extractOpcode.bus = s.bus := rfl
@[simp] theorem extractOpcode_sum (s : State) : s.extractOpcode.sum = s.sum := rfl
@[simp] theorem extractOpcode_cfg (s : State) : s.extractOpcode.cfg = s.cfg := rfl
@[simp] theorem extractOpcode_draws (s : State) : s.extractOpcode.draws = s.draws := rfl
@[simp] theorem publish_pc (s : State) (w : ControlWord) : (s.publish w).pc = s.pc := rfl
@[simp] theorem publish_gpr (s : State) (w : ControlWord) : (s.publish w).gpr = s.gpr := rfl
@[simp] theorem publish_acc (s : State) (w : ControlWord) : (s.publish w).acc = s.acc := rfl
@[simp] theorem publish_mar (s : State) (w : ControlWord) : (s.publish w).mar = s.mar := rfl
@[simp] theorem publish_flg (s : State) (w : ControlWord) : (s.publish w).flg = s.flg := rfl
@[simp] theorem publish_opr (s : State) (w : ControlWord) : (s.publish w).opr = s.opr := rfl
@[simp] theorem publish_step (s : State) (w : ControlWord) : (s.publish w).step = s.step := rfl
@[simp] theorem publish_cw (s : State) (w : ControlWord) : (s.publish w).cw = w := rfl
@[simp] theorem publish_halted (s : State) (w : ControlWord) : (s.publish w).halted = (s.halted || intersects w s.cfg.layout.hlt) := rfl
@[simp] theorem publish_mem (s : State) (w : ControlWord) : (s.publish w).mem = s.mem := rfl
@[simp] theorem publish_bus (s : State) (w : ControlWord) : (s.publish w).bus = s.bus := rfl
@[simp] theorem publish_sum (s : State) (w : ControlWord) : (s.publish w).sum = s.sum := rfl
@[simp] theorem publish_cfg (s : State) (w : ControlWord) : (s.publish w).cfg = s.cfg := rfl
@[simp] theorem publish_draws (s : State) (w : ControlWord) : (s.publish w).draws = s.draws := rfl
@[simp] theorem fetched_pc (s : State) (w : Word) : (s.fetched w).pc = registerIncrement s.pc := rfl
@[simp] theorem fetched_gpr (s : State) (w : Word) : (s.fetched w).gpr = w := rfl
@[simp] theorem fetched_acc (s : State) (w : Word) : (s.fetched w).acc = s.acc := rfl
@[simp] theorem fetched_mar (s : State) (w : Word) : (s.fetched w).mar = s.pc.setWidth Config.wMar := rfl
@[simp] theorem fetched_flg (s : State) (w : Word) : (s.fetched w).flg = recomputeZ w s.flg := rfl
@[simp] theorem fetched_opr (s : State) (w : Word) : (s.fetched w).opr = opcodeField w := rfl
@[simp] theorem fetched_step (s : State) (w : Word) : (s.fetched w).step = Config.nFetch := rfl
@[simp] theorem fetched_cw (s : State) (w : Word) : (s.fetched w).cw = wordExtract := rfl
@[simp] theorem fetched_halted (s : State) (w : Word) : (s.fetched w).halted = s.halted := rfl
@[simp] theorem fetched_mem (s : State) (w : Word) : (s.fetched w).mem = s.mem := rfl
@[simp] theorem fetched_bus (s : State) (w : Word) : (s.fetched w).bus = Config.busDraw s.draws := rfl
@[simp] theorem fetched_sum (s : State) (w : Word) : (s.fetched w).sum = s.acc + w := rfl
@[simp] theorem fetched_cfg (s : State) (w : Word) : (s.fetched w).cfg = s.cfg := rfl
@[simp] theorem fetched_draws (s : State) (w : Word) : (s.fetched w).draws = s.draws + 1 := rfl

end Sys2Proof.Machine
end

