-- ==== Sys2Proof/Laws/Pulse.lean ====
section
/-!
SUPPORT. What each phase of a pulse can do, said once: the fields it leaves alone, and by cases what it
answers. Proofs about the pulse cite these and do not unfold the phases.
-/

namespace Sys2Proof.Machine

/-! ### The register loops of the falling edge and the low level -/

/-- A loop over registers keeps whatever each of its turns keeps. -/
theorem foldl_keeps {α : Type} {turn : State → RegName → State} {field : State → α}
    (h : ∀ s r, field (turn s r) = field s) (rs : List RegName) (s : State) :
    field (rs.foldl turn s) = field s := by
  induction rs generalizing s with
  | nil => rfl
  | cons r rs ih => rw [List.foldl_cons, ih, h]

section Loops

variable (rs : List RegName) (s : State)

@[simp] theorem incrementLoop_keeps_cfg : (rs.foldl State.incrementIfEnabled s).cfg = s.cfg :=
  foldl_keeps (fun t r => by unfold State.incrementIfEnabled; split <;> simp) rs s

@[simp] theorem incrementLoop_keeps_cw : (rs.foldl State.incrementIfEnabled s).cw = s.cw :=
  foldl_keeps (fun t r => by unfold State.incrementIfEnabled; split <;> simp) rs s

@[simp] theorem incrementLoop_keeps_halted : (rs.foldl State.incrementIfEnabled s).halted = s.halted :=
  foldl_keeps (fun t r => by unfold State.incrementIfEnabled; split <;> simp) rs s

@[simp] theorem incrementLoop_keeps_mem : (rs.foldl State.incrementIfEnabled s).mem = s.mem :=
  foldl_keeps (fun t r => by unfold State.incrementIfEnabled; split <;> simp) rs s

@[simp] theorem incrementLoop_keeps_bus : (rs.foldl State.incrementIfEnabled s).bus = s.bus :=
  foldl_keeps (fun t r => by unfold State.incrementIfEnabled; split <;> simp) rs s

@[simp] theorem incrementLoop_keeps_sum : (rs.foldl State.incrementIfEnabled s).sum = s.sum :=
  foldl_keeps (fun t r => by unfold State.incrementIfEnabled; split <;> simp) rs s

@[simp] theorem incrementLoop_keeps_draws : (rs.foldl State.incrementIfEnabled s).draws = s.draws :=
  foldl_keeps (fun t r => by unfold State.incrementIfEnabled; split <;> simp) rs s

@[simp] theorem latchLoop_keeps_cfg : (rs.foldl State.latchIfEnabled s).cfg = s.cfg :=
  foldl_keeps (fun t r => by unfold State.latchIfEnabled; split <;> simp) rs s

@[simp] theorem latchLoop_keeps_cw : (rs.foldl State.latchIfEnabled s).cw = s.cw :=
  foldl_keeps (fun t r => by unfold State.latchIfEnabled; split <;> simp) rs s

@[simp] theorem latchLoop_keeps_halted : (rs.foldl State.latchIfEnabled s).halted = s.halted :=
  foldl_keeps (fun t r => by unfold State.latchIfEnabled; split <;> simp) rs s

@[simp] theorem latchLoop_keeps_mem : (rs.foldl State.latchIfEnabled s).mem = s.mem :=
  foldl_keeps (fun t r => by unfold State.latchIfEnabled; split <;> simp) rs s

@[simp] theorem latchLoop_keeps_bus : (rs.foldl State.latchIfEnabled s).bus = s.bus :=
  foldl_keeps (fun t r => by unfold State.latchIfEnabled; split <;> simp) rs s

@[simp] theorem latchLoop_keeps_sum : (rs.foldl State.latchIfEnabled s).sum = s.sum :=
  foldl_keeps (fun t r => by unfold State.latchIfEnabled; split <;> simp) rs s

@[simp] theorem latchLoop_keeps_draws : (rs.foldl State.latchIfEnabled s).draws = s.draws :=
  foldl_keeps (fun t r => by unfold State.latchIfEnabled; split <;> simp) rs s

end Loops

/-- The increments of the falling edge, register by register: they are independent of one another. -/
theorem incrementLoop_eq (s : State) :
    registerOrder.foldl State.incrementIfEnabled s =
      { s with
        pc := if incrementEnabled s.cw s.cfg.layout.pc.increment then registerIncrement s.pc else s.pc
        gpr := if incrementEnabled s.cw s.cfg.layout.gpr.increment then registerIncrement s.gpr else s.gpr
        acc := if incrementEnabled s.cw s.cfg.layout.acc.increment then registerIncrement s.acc else s.acc
        mar := if incrementEnabled s.cw s.cfg.layout.mar.increment then registerIncrement s.mar else s.mar
        flg := if incrementEnabled s.cw s.cfg.layout.flg.increment then registerIncrement s.flg else s.flg
        opr := if incrementEnabled s.cw s.cfg.layout.opr.increment then registerIncrement s.opr else s.opr
        step := if incrementEnabled s.cw s.cfg.layout.step.increment then registerIncrement s.step
          else s.step } := by
  have pc (t : State) : t.incrementIfEnabled .pc = { t with
      pc := if incrementEnabled t.cw t.cfg.layout.pc.increment then registerIncrement t.pc else t.pc } := by
    by_cases h : incrementEnabled t.cw t.cfg.layout.pc.increment = true <;>
      simp [State.incrementIfEnabled, masksOf, State.incrementReg, h]
  have gpr (t : State) : t.incrementIfEnabled .gpr = { t with
      gpr := if incrementEnabled t.cw t.cfg.layout.gpr.increment then registerIncrement t.gpr else t.gpr } := by
    by_cases h : incrementEnabled t.cw t.cfg.layout.gpr.increment = true <;>
      simp [State.incrementIfEnabled, masksOf, State.incrementReg, h]
  have acc (t : State) : t.incrementIfEnabled .acc = { t with
      acc := if incrementEnabled t.cw t.cfg.layout.acc.increment then registerIncrement t.acc else t.acc } := by
    by_cases h : incrementEnabled t.cw t.cfg.layout.acc.increment = true <;>
      simp [State.incrementIfEnabled, masksOf, State.incrementReg, h]
  have mar (t : State) : t.incrementIfEnabled .mar = { t with
      mar := if incrementEnabled t.cw t.cfg.layout.mar.increment then registerIncrement t.mar else t.mar } := by
    by_cases h : incrementEnabled t.cw t.cfg.layout.mar.increment = true <;>
      simp [State.incrementIfEnabled, masksOf, State.incrementReg, h]
  have flg (t : State) : t.incrementIfEnabled .flg = { t with
      flg := if incrementEnabled t.cw t.cfg.layout.flg.increment then registerIncrement t.flg else t.flg } := by
    by_cases h : incrementEnabled t.cw t.cfg.layout.flg.increment = true <;>
      simp [State.incrementIfEnabled, masksOf, State.incrementReg, h]
  have opr (t : State) : t.incrementIfEnabled .opr = { t with
      opr := if incrementEnabled t.cw t.cfg.layout.opr.increment then registerIncrement t.opr else t.opr } := by
    by_cases h : incrementEnabled t.cw t.cfg.layout.opr.increment = true <;>
      simp [State.incrementIfEnabled, masksOf, State.incrementReg, h]
  have step (t : State) : t.incrementIfEnabled .step = { t with
      step := if incrementEnabled t.cw t.cfg.layout.step.increment then registerIncrement t.step
        else t.step } := by
    by_cases h : incrementEnabled t.cw t.cfg.layout.step.increment = true <;>
      simp [State.incrementIfEnabled, masksOf, State.incrementReg, h]
  simp only [registerOrder, List.foldl_cons, List.foldl_nil, pc, gpr, acc, mar, flg, opr, step]

/-- The latches of the low level, register by register. -/
theorem latchLoop_eq (s : State) :
    registerOrder.foldl State.latchIfEnabled s =
      { s with
        pc := if intersects s.cw s.cfg.layout.pc.input then registerWrite Config.wPc s.bus.toNat else s.pc
        gpr := if intersects s.cw s.cfg.layout.gpr.input then registerWrite Config.wData s.bus.toNat else s.gpr
        acc := if intersects s.cw s.cfg.layout.acc.input then registerWrite Config.wData s.bus.toNat else s.acc
        mar := if intersects s.cw s.cfg.layout.mar.input then registerWrite Config.wMar s.bus.toNat else s.mar
        flg := if intersects s.cw s.cfg.layout.flg.input then registerWrite Config.wFlg s.bus.toNat else s.flg
        opr := if intersects s.cw s.cfg.layout.opr.input then registerWrite Config.wOpc s.bus.toNat else s.opr
        step := if intersects s.cw s.cfg.layout.step.input then registerWrite Config.wStep s.bus.toNat
          else s.step } := by
  have pc (t : State) : t.latchIfEnabled .pc = { t with
      pc := if intersects t.cw t.cfg.layout.pc.input then registerWrite Config.wPc t.bus.toNat else t.pc } := by
    by_cases h : intersects t.cw t.cfg.layout.pc.input = true <;>
      simp [State.latchIfEnabled, masksOf, State.writeReg, h]
  have gpr (t : State) : t.latchIfEnabled .gpr = { t with
      gpr := if intersects t.cw t.cfg.layout.gpr.input then registerWrite Config.wData t.bus.toNat else t.gpr } := by
    by_cases h : intersects t.cw t.cfg.layout.gpr.input = true <;>
      simp [State.latchIfEnabled, masksOf, State.writeReg, h]
  have acc (t : State) : t.latchIfEnabled .acc = { t with
      acc := if intersects t.cw t.cfg.layout.acc.input then registerWrite Config.wData t.bus.toNat else t.acc } := by
    by_cases h : intersects t.cw t.cfg.layout.acc.input = true <;>
      simp [State.latchIfEnabled, masksOf, State.writeReg, h]
  have mar (t : State) : t.latchIfEnabled .mar = { t with
      mar := if intersects t.cw t.cfg.layout.mar.input then registerWrite Config.wMar t.bus.toNat else t.mar } := by
    by_cases h : intersects t.cw t.cfg.layout.mar.input = true <;>
      simp [State.latchIfEnabled, masksOf, State.writeReg, h]
  have flg (t : State) : t.latchIfEnabled .flg = { t with
      flg := if intersects t.cw t.cfg.layout.flg.input then registerWrite Config.wFlg t.bus.toNat else t.flg } := by
    by_cases h : intersects t.cw t.cfg.layout.flg.input = true <;>
      simp [State.latchIfEnabled, masksOf, State.writeReg, h]
  have opr (t : State) : t.latchIfEnabled .opr = { t with
      opr := if intersects t.cw t.cfg.layout.opr.input then registerWrite Config.wOpc t.bus.toNat else t.opr } := by
    by_cases h : intersects t.cw t.cfg.layout.opr.input = true <;>
      simp [State.latchIfEnabled, masksOf, State.writeReg, h]
  have step (t : State) : t.latchIfEnabled .step = { t with
      step := if intersects t.cw t.cfg.layout.step.input then registerWrite Config.wStep t.bus.toNat
        else t.step } := by
    by_cases h : intersects t.cw t.cfg.layout.step.input = true <;>
      simp [State.latchIfEnabled, masksOf, State.writeReg, h]
  simp only [registerOrder, List.foldl_cons, List.foldl_nil, pc, gpr, acc, mar, flg, opr, step]

/-- The store changes memory only. -/
theorem storeIfEnabled_eq (s : State) :
    s.storeIfEnabled =
      { s with mem := if intersects s.cw s.cfg.layout.memIn then s.mem.write s.mar s.bus else s.mem } := by
  by_cases h : intersects s.cw s.cfg.layout.memIn = true <;> simp [State.storeIfEnabled, h]

/-! ### The mask test and the conditional increments -/

/-- A word that is the union of two meets a mask if either does. -/
theorem intersects_or (a b m : ControlWord) :
    intersects (a ||| b) m = (intersects a m || intersects b m) := by
  have split : (a ||| b) &&& m = (a &&& m) ||| (b &&& m) := by
    ext i hi
    simp [Bool.and_or_distrib_right]
  have zero : ∀ x y : ControlWord, x ||| y = 0 ↔ x = 0 ∧ y = 0 := by
    refine fun x y => ⟨fun h => ⟨?_, ?_⟩, by rintro ⟨rfl, rfl⟩; rfl⟩ <;>
    · ext i hi
      have := congrArg (fun v => v.getLsbD i) h
      simp only [BitVec.getLsbD_or, BitVec.ofNat_eq_ofNat, BitVec.getLsbD_zero, Bool.or_eq_false_iff] at this
      simp [← BitVec.getLsbD_eq_getElem, this]
  unfold intersects
  rw [split, Bool.eq_iff_iff, Bool.or_eq_true, bne_iff_ne, bne_iff_ne, bne_iff_ne, ne_eq, zero, not_and_or]

/-- The conditional increments leave the word as it is, or, where it asserts one of their lines, OR it
with `L_IPC`. -/
theorem conditionalIncrements_cases (l : Layout) (f z : Bool) (w : ControlWord) :
    conditionalIncrements l f z w = w ∨
    (conditionalIncrements l f z w = w ||| l.ipc ∧
      (intersects w l.ipcF0 = true ∨ intersects w l.ipcZ1 = true)) := by
  unfold conditionalIncrements
  dsimp only
  by_cases h1 : (intersects w l.ipcF0 && !f) = true
  · rw [if_pos h1]
    rw [Bool.and_eq_true] at h1
    refine .inr ⟨?_, .inl h1.1⟩
    split <;> simp [BitVec.or_assoc]
  · rw [if_neg h1]
    split
    · rename_i h2
      rw [Bool.and_eq_true] at h2
      exact .inr ⟨rfl, .inr h2.1⟩
    · exact .inl rfl

/-! ### The phases -/

/-- The high level either finds no driver and takes a free value, or finds one and drives its value;
it changes BUS, SUM and the count of draws only. -/
theorem highLevel_ok_cases {s h : State} (e : s.highLevel = .ok h) :
    (drivers s.cfg.layout s.cw = [] ∧
      h = { s with bus := Config.busDraw s.draws, draws := s.draws + 1, sum := s.precomputedSum }) ∨
    (∃ d, drivers s.cfg.layout s.cw = [d] ∧
      h = { s with bus := State.driven s d, sum := s.precomputedSum }) := by
  unfold State.highLevel at e
  split at e
  · rename_i hd; exact .inl ⟨hd, by simpa using e.symm⟩
  · rename_i d hd; exact .inr ⟨d, hd, by simpa using e.symm⟩
  · cases e

/-- The high level refuses only two drivers, and by that name. -/
theorem highLevel_error {s : State} {r : Refusal} (e : s.highLevel = .error r) :
    r = .wfOneDriver ∧ 2 ≤ (drivers s.cfg.layout s.cw).length := by
  unfold State.highLevel at e
  split at e
  · cases e
  · cases e
  · rename_i hd
    cases e
    simp [hd]

/-- The ALU performs no operation or exactly one. -/
theorem aluOperation_ok_cases {s t : State} (e : s.aluOperation = .ok t) :
    (requestedOps s.cfg.layout s.cw = [] ∧ t = s) ∨
    (∃ op, requestedOps s.cfg.layout s.cw = [op] ∧ t = s.applyAlu op) := by
  unfold State.aluOperation at e
  split at e
  · rename_i hd; exact .inl ⟨hd, by simpa using e.symm⟩
  · rename_i d hd; exact .inr ⟨d, hd, by simpa using e.symm⟩
  · cases e

/-- The falling edge is the loop of increments, the Z computation, one ALU operation at most, and the
router; two ALU operations are refused by that name. -/
theorem fallingEdge_ok_cases {s t : State} (e : s.fallingEdge = .ok t) :
    ∃ u, (registerOrder.foldl State.incrementIfEnabled s).deriveZ.aluOperation = .ok u ∧ t = u.route := by
  unfold State.fallingEdge at e
  split at e
  · rename_i u hu; exact ⟨u, hu, by simpa using e.symm⟩
  · cases e

theorem fallingEdge_error {s : State} {r : Refusal} (e : s.fallingEdge = .error r) :
    r = .wfOneAluOp ∧ 2 ≤ (requestedOps s.cfg.layout s.cw).length := by
  unfold State.fallingEdge at e
  split at e
  · cases e
  · rename_i r' hr
    cases e
    unfold State.aluOperation at hr
    split at hr
    · cases hr
    · cases hr
    · rename_i hd
      cases hr
      simp only [deriveZ_cfg, incrementLoop_keeps_cfg, deriveZ_cw, incrementLoop_keeps_cw] at hd
      simp [hd]

/-- What an ALU operation may change: GPR, ACC and FLG. -/
theorem applyAlu_keeps (s : State) (op : AluOp) :
    s.applyAlu op = { s with
      gpr := (s.applyAlu op).gpr, acc := (s.applyAlu op).acc, flg := (s.applyAlu op).flg } := by
  cases op <;> rfl

/-- What the router may change: PC, GPR and OPR. -/
theorem route_keeps (s : State) :
    s.route = { s with pc := s.route.pc, gpr := s.route.gpr, opr := s.route.opr } := by
  unfold State.route
  split_ifs <;> rfl

/-- The falling edge changes registers only. -/
theorem fallingEdge_keeps {s t : State} (e : s.fallingEdge = .ok t) :
    t.cfg = s.cfg ∧ t.cw = s.cw ∧ t.halted = s.halted ∧ t.mem = s.mem ∧ t.bus = s.bus ∧ t.sum = s.sum ∧
      t.draws = s.draws := by
  obtain ⟨u, hu, rfl⟩ := fallingEdge_ok_cases e
  rw [route_keeps]
  obtain ⟨-, rfl⟩ | ⟨op, -, rfl⟩ := aluOperation_ok_cases hu
  · simp
  · rw [applyAlu_keeps]; simp

/-- The low level changes registers, and memory at the MAR it leaves if the memory's line is asserted. -/
theorem lowLevel_keeps (s : State) :
    s.lowLevel.cfg = s.cfg ∧ s.lowLevel.cw = s.cw ∧ s.lowLevel.halted = s.halted ∧
      s.lowLevel.bus = s.bus ∧ s.lowLevel.sum = s.sum ∧ s.lowLevel.draws = s.draws := by
  unfold State.lowLevel State.storeIfEnabled
  split <;> simp

theorem lowLevel_mem (s : State) :
    s.lowLevel.mem =
      if intersects s.cw s.cfg.layout.memIn then s.mem.write s.lowLevel.mar s.bus else s.mem := by
  unfold State.lowLevel State.storeIfEnabled
  simp only [latchLoop_keeps_cw, latchLoop_keeps_cfg, latchLoop_keeps_mem, latchLoop_keeps_bus]
  split <;> simp

/-- The rising edge changes CW, HALTED and STEP only: either the looked-up word with its conditional
increments is published, or STEP is cleared and row 0 is. -/
theorem risingEdge_cases {s r : State} {w : ControlWord} (e : s.risingEdge w = some r) :
    (intersects (conditionalIncrements s.cfg.layout (flagF s.flg) (flagZ s.flg) w) s.cfg.layout.clr = false ∧
      r = s.publish (conditionalIncrements s.cfg.layout (flagF s.flg) (flagZ s.flg) w)) ∨
    (intersects (conditionalIncrements s.cfg.layout (flagF s.flg) (flagZ s.flg) w) s.cfg.layout.clr = true ∧
      ∃ w0, rowAt s.cfg 0 = some w0 ∧ r = State.publish { s with step := 0 } w0) := by
  unfold State.risingEdge at e
  dsimp only at e
  split at e
  · rename_i hc
    refine .inr ⟨hc, ?_⟩
    split at e
    · rename_i w0 h0; exact ⟨w0, h0, by simpa using e.symm⟩
    · cases e
  · rename_i hc
    exact .inl ⟨by simpa using hc, by simpa using e.symm⟩

theorem risingEdge_keeps {s r : State} {w : ControlWord} (e : s.risingEdge w = some r) :
    r = { s with cw := r.cw, step := r.step, halted := r.halted } := by
  obtain ⟨-, rfl⟩ | ⟨-, w0, -, rfl⟩ := risingEdge_cases e <;> rfl

/-- Everything a pulse that answers a next state can have done. -/
theorem runWord_next_cases {w : ControlWord} {s t : State} (e : runWord w s = .next t) :
    (s.halted = true ∧ t = s) ∨
    (s.halted = false ∧ ∃ r, s.risingEdge w = some r ∧
      ((r.halted = true ∧ t = r) ∨
       (r.halted = false ∧ ∃ h f, r.highLevel = .ok h ∧ h.fallingEdge = .ok f ∧ t = f.lowLevel))) := by
  unfold runWord at e
  split at e
  · rename_i hh; exact .inl ⟨hh, by simpa using e.symm⟩
  · rename_i hh
    refine .inr ⟨by simpa using hh, ?_⟩
    split at e
    · cases e
    · rename_i r hr
      refine ⟨r, hr, ?_⟩
      split at e
      · rename_i hr'; exact .inl ⟨hr', by simpa using e.symm⟩
      · rename_i hr'
        refine .inr ⟨by simpa using hr', ?_⟩
        unfold State.laterPhases at e
        split at e
        · cases e
        · rename_i h hh'
          split at e
          · cases e
          · rename_i f hf; exact ⟨h, f, hh', hf, by simpa using e.symm⟩

/-- A pulse answers no fault; it refuses a missing row 0, two drivers or two ALU operations. -/
theorem runWord_refused_cases {w : ControlWord} {s : State} {x : Refusal} (e : runWord w s = .refused x) :
    s.halted = false ∧
    ((s.risingEdge w = none ∧ x = .wfTable) ∨
     ∃ r, s.risingEdge w = some r ∧ r.halted = false ∧
      ((x = .wfOneDriver ∧ 2 ≤ (drivers r.cfg.layout r.cw).length) ∨
       (x = .wfOneAluOp ∧ 2 ≤ (requestedOps r.cfg.layout r.cw).length))) := by
  unfold runWord at e
  split at e
  · cases e
  · rename_i hh
    refine ⟨by simpa using hh, ?_⟩
    split at e
    · rename_i hr; exact .inl ⟨hr, by simpa using e.symm⟩
    · rename_i r hr
      refine .inr ⟨r, hr, ?_⟩
      split at e
      · cases e
      · rename_i hr'
        refine ⟨by simpa using hr', ?_⟩
        unfold State.laterPhases at e
        split at e
        · rename_i y hy
          cases e
          exact .inl (highLevel_error hy)
        · rename_i h hh'
          split at e
          · rename_i y hy
            cases e
            have := fallingEdge_error hy
            obtain ⟨-, rfl⟩ | ⟨d, -, rfl⟩ := highLevel_ok_cases hh' <;> exact .inr this
          · cases e

theorem runWord_ne_fault (w : ControlWord) (s : State) (f : Fault) : runWord w s ≠ .fault f := by
  unfold runWord State.laterPhases
  split_ifs <;> try simp
  split <;> try simp
  split_ifs <;> try simp
  split <;> try simp
  split <;> simp

/-- A pulse whose effective word asserts neither clear-step nor halt publishes it and runs the three
later phases. -/
theorem runWord_completing {w e : ControlWord} {s : State} (hh : s.halted = false)
    (he : conditionalIncrements s.cfg.layout (flagF s.flg) (flagZ s.flg) w = e)
    (hclr : intersects e s.cfg.layout.clr = false) (hhlt : intersects e s.cfg.layout.hlt = false) :
    runWord w s = State.laterPhases { s with cw := e } := by
  have hr : s.risingEdge w = some { s with cw := e } := by
    unfold State.risingEdge
    simp only [he, hclr, Bool.false_eq_true, if_false, State.publish, hhlt, hh, Bool.or_false]
  unfold runWord
  simp only [hh, Bool.false_eq_true, if_false, hr]

/-! ### The halt window -/

/-- Leaving the halt-bit out of a slot loses no row: it is OR-ed in again (45_sequencer.md R195). -/
theorem haltBit_or_slotBesideHaltBit (slot : Slot) :
    Config.haltBit ||| (slotBesideHaltBit slot).toNat = Config.haltBit ||| slot.toNat := by
  revert slot
  decide

/-- The slot of a halt-window row that a step selects is well formed. -/
theorem slotBesideHaltBit_wf (slot : Slot) : (Instr.ixExecHalt (slotBesideHaltBit slot)).wf = true := by
  revert slot
  decide

/-! ### The words that statements use, and the functions of the model -/

/-- The statements' working word is the model's word after items 4 and 5. -/
theorem workingWord_eq (s : State) (w : ControlWord) :
    s.workingWord w = conditionalIncrements s.cfg.layout (flagF s.flg) (flagZ s.flg) w := by
  simp only [State.workingWord, conditionalIncrements, intersects, flagF, flagZ, bne_iff_ne, Bool.and_eq_true,
    Bool.not_eq_true']

/-- A word that meets a mask still does after the conditional increments. -/
theorem intersects_workingWord {s : State} {w m : ControlWord} (h : intersects w m = true) :
    intersects (s.workingWord w) m = true := by
  rw [workingWord_eq]
  obtain e | ⟨e, -⟩ := conditionalIncrements_cases s.cfg.layout (flagF s.flg) (flagZ s.flg) w <;> rw [e]
  · exact h
  · rw [intersects_or, h]; rfl

/-- The statements' increment is the model's. -/
theorem incremented_eq {n : Nat} (w : ControlWord) (m : IncMask) (v : BitVec n) :
    incremented w m v = if incrementEnabled w m then registerIncrement v else v := by
  cases m <;> simp [incremented, incrementEnabled, intersects, registerIncrement]

/-! ### One requested ALU operation, the router and the latches, field by field -/

/-- If any operation is requested, it is the one performed. -/
theorem aluOperation_of_requested {s t : State} {op : AluOp} (e : s.aluOperation = .ok t)
    (h : intersects s.cw (aluMask s.cfg.layout op) = true) : t = s.applyAlu op := by
  have mem : op ∈ requestedOps s.cfg.layout s.cw :=
    List.mem_filter.2 ⟨by cases op <;> decide, h⟩
  obtain ⟨hn, -⟩ | ⟨o, ho, rfl⟩ := aluOperation_ok_cases e
  · rw [hn] at mem; cases mem
  · rw [ho, List.mem_singleton] at mem; rw [mem]

/-- The operation performed, if any, is a requested one. -/
theorem aluOperation_cases {s t : State} (e : s.aluOperation = .ok t) :
    t = s ∨ ∃ op, intersects s.cw (aluMask s.cfg.layout op) = true ∧ t = s.applyAlu op := by
  obtain ⟨-, rfl⟩ | ⟨op, ho, rfl⟩ := aluOperation_ok_cases e
  · exact .inl rfl
  · have mem : op ∈ requestedOps s.cfg.layout s.cw := by rw [ho]; exact List.mem_singleton_self op
    exact .inr ⟨op, (List.mem_filter.1 mem).2, rfl⟩

theorem route_of_other {s : State} (h : s.cw ≠ s.cfg.layout.swap) (h' : s.cw ≠ s.cfg.layout.extract) :
    s.route = s := by
  rw [State.route, if_neg h, if_neg h']

theorem route_of_swap {s : State} (h : s.cw = s.cfg.layout.swap) : s.route = s.swapPcGpr := by
  rw [State.route, if_pos h]

theorem route_of_extract {s : State} (h : s.cw ≠ s.cfg.layout.swap) (h' : s.cw = s.cfg.layout.extract) :
    s.route = s.extractOpcode := by
  rw [State.route, if_neg h, if_pos h']

/-- Without the swap the router leaves PC and GPR. -/
theorem route_pc_gpr {s : State} (h : s.cw ≠ s.cfg.layout.swap) :
    s.route.pc = s.pc ∧ s.route.gpr = s.gpr := by
  unfold State.route
  rw [if_neg h]
  split_ifs <;> exact ⟨rfl, rfl⟩

/-- The router leaves ACC, MAR, FLG and STEP, and OPR unless it extracts. -/
theorem route_others (s : State) :
    s.route.acc = s.acc ∧ s.route.mar = s.mar ∧ s.route.flg = s.flg ∧ s.route.step = s.step ∧
      ((s.cw = s.cfg.layout.swap ∨ s.cw ≠ s.cfg.layout.extract) → s.route.opr = s.opr) := by
  unfold State.route
  split_ifs with h h' <;> simp_all

/-- A register whose input line is not asserted keeps its value in the low level. -/
theorem lowLevel_unlatched (s : State) :
    (intersects s.cw s.cfg.layout.pc.input = false → s.lowLevel.pc = s.pc) ∧
    (intersects s.cw s.cfg.layout.gpr.input = false → s.lowLevel.gpr = s.gpr) ∧
    (intersects s.cw s.cfg.layout.acc.input = false → s.lowLevel.acc = s.acc) ∧
    (intersects s.cw s.cfg.layout.mar.input = false → s.lowLevel.mar = s.mar) ∧
    (intersects s.cw s.cfg.layout.flg.input = false → s.lowLevel.flg = s.flg) ∧
    (intersects s.cw s.cfg.layout.opr.input = false → s.lowLevel.opr = s.opr) ∧
    (intersects s.cw s.cfg.layout.step.input = false → s.lowLevel.step = s.step) := by
  unfold State.lowLevel
  rw [storeIfEnabled_eq, latchLoop_eq]
  refine ⟨?_, ?_, ?_, ?_, ?_, ?_, ?_⟩ <;> intro h <;> simp [h]

/-- What the falling edge of a pulse starts from and leaves: there are an incremented state and the
state after the ALU, and the router has the last word. -/
theorem completed_pulse {w : ControlWord} {s t : State} (hs : s.halted = false) (e : runWord w s = .next t)
    (ht : t.halted = false) :
    ∃ r i u : State, s.risingEdge w = some r ∧ t.cw = r.cw ∧ t.cfg = s.cfg ∧ r.cfg = s.cfg ∧
      i.cw = r.cw ∧ i.cfg = s.cfg ∧ i.sum = s.acc + s.gpr ∧
      i.pc = incremented r.cw s.cfg.layout.pc.increment s.pc ∧
      i.gpr = incremented r.cw s.cfg.layout.gpr.increment s.gpr ∧
      i.acc = incremented r.cw s.cfg.layout.acc.increment s.acc ∧
      i.mar = incremented r.cw s.cfg.layout.mar.increment s.mar ∧
      i.flg = incremented r.cw s.cfg.layout.flg.increment s.flg ∧
      i.opr = incremented r.cw s.cfg.layout.opr.increment s.opr ∧
      i.step = incremented r.cw s.cfg.layout.step.increment r.step ∧
      i.deriveZ.aluOperation = .ok u ∧ u.cw = r.cw ∧ u.cfg = s.cfg ∧ t = u.route.lowLevel := by
  obtain ⟨hx, -⟩ | ⟨-, r, hr, hx⟩ := runWord_next_cases e
  · rw [hs] at hx; cases hx
  obtain ⟨hx, rfl⟩ | ⟨-, h, f, h1, h2, rfl⟩ := hx
  · rw [ht] at hx; cases hx
  have kr := risingEdge_keeps hr
  have kf := fallingEdge_keeps h2
  have kl := lowLevel_keeps f
  obtain ⟨u, hu, rfl⟩ := fallingEdge_ok_cases h2
  have ku : u.cw = u.route.cw ∧ u.cfg = u.route.cfg := by rw [route_keeps]; exact ⟨rfl, rfl⟩
  have hh : h = { r with bus := h.bus, sum := r.acc + r.gpr, draws := h.draws } := by
    obtain ⟨-, rfl⟩ | ⟨d, -, rfl⟩ := highLevel_ok_cases h1 <;> rfl
  have hcw : h.cw = r.cw := by rw [hh]
  have hcfg : h.cfg = s.cfg := by rw [hh, kr]
  refine ⟨r, registerOrder.foldl State.incrementIfEnabled h, u, hr, ?_, ?_, ?_, ?_, ?_, ?_, ?_, ?_, ?_, ?_,
    ?_, ?_, ?_, hu, ?_, ?_, rfl⟩
  · rw [kl.2.1, kf.2.1, hcw]
  · rw [kl.1, kf.1, hcfg]
  · rw [kr]
  · simp [hcw]
  · simp [hcfg]
  · rw [incrementLoop_keeps_sum, hh, kr]
  all_goals first
    | (rw [incrementLoop_eq, incremented_eq]; simp only [hcw, hcfg]; rw [hh, kr])
    | (rw [ku.1, kf.2.1, hcw])
    | (rw [ku.2, kf.1, hcfg])

/-- The later phases of a word that enables at most one driver and requests at most one ALU operation
complete, and change neither CW nor HALTED. -/
theorem laterPhases_completes {s : State} (hd : oneDriver s.cfg.layout s.cw = true)
    (ha : oneAluOp s.cfg.layout s.cw = true) :
    ∃ t, s.laterPhases = .next t ∧ t.cw = s.cw ∧ t.halted = s.halted := by
  simp only [oneDriver, oneAluOp, decide_eq_true_eq] at hd ha
  unfold State.laterPhases
  cases e : s.highLevel with
  | error r => have := highLevel_error e; omega
  | ok h =>
    have hk : h.cfg = s.cfg ∧ h.cw = s.cw ∧ h.halted = s.halted := by
      obtain ⟨-, rfl⟩ | ⟨d, -, rfl⟩ := highLevel_ok_cases e <;> exact ⟨rfl, rfl, rfl⟩
    dsimp only
    cases e' : h.fallingEdge with
    | error r => have := fallingEdge_error e'; rw [hk.1, hk.2.1] at this; omega
    | ok f =>
      have kf := fallingEdge_keeps e'
      have kl := lowLevel_keeps f
      exact ⟨f.lowLevel, rfl, by rw [kl.2.1, kf.2.1, hk.2.1], by rw [kl.2.2.1, kf.2.2.1, hk.2.2]⟩

/-- A row's pulse is the pulse of its word. -/
theorem runRow_of_row {i : Nat} {w : ControlWord} {s : State} (h : rowAt s.cfg i = some w) :
    runRow i s = runWord w s := by
  unfold runRow
  split
  · rename_i hh; unfold runWord; rw [if_pos hh]
  · rw [h]

/-- Pulses one after another. -/
theorem runWords_cons_next {w : ControlWord} {ws : List ControlWord} {s t : State}
    (h : runWord w s = .next t) : runWords (w :: ws) s = runWords ws t := by
  simp only [runWords, h]

end Sys2Proof.Machine
end

