-- ==== Sys2Proof/Tests/Slice0.lean ====
section
/-!
SUPPORT. Tests, and witnesses for the hypotheses of the statements. Expected results are the vectors of
spec/95_test_vectors.md (V…, S…, P…) or words written out from 30_encoding.md and
46_reference_microprogram.md. BUS in an undriven pulse is opaque, so tests compare named fields.
-/

open Sys2Proof Sys2Proof.Machine

namespace Sys2Proof.Tests

-- one theorem at a time: a hundred checked at once take a thread, and its stack, each
set_option Elab.async false

/-! ## Helpers -/

/-- One field of the next state, if there is one. -/
def seen {α : Type} (f : State → α) : Host.Outcome State Fault Refusal → Option α
  | .next s => some (f s)
  | _ => none

/-- The fault, if there is one. -/
def faultOf : Host.Outcome State Fault Refusal → Option Fault
  | .fault r => some r
  | _ => none

/-- The refusal, if there is one. -/
def refusalOf : Host.Outcome State Fault Refusal → Option Refusal
  | .refused r => some r
  | _ => none

theorem exists_next {α : Type} {f : State → α} {o : Host.Outcome State Fault Refusal} {v : α}
    (h : seen f o = some v) : ∃ t, o = .next t ∧ f t = v := by
  cases o with
  | next t => exact ⟨t, rfl, by simpa [seen] using h⟩
  | fault r => cases h
  | refused r => cases h

/-- The reference machine with the given words of memory. -/
def machine (mem : Memory) : State := { State.reset with mem := mem }

/-- The reference configuration with one row replaced. -/
def withRow (n v : Nat) : Config :=
  { referenceConfig [] with ucode := (referenceConfig []).ucode.set n v }

/-! ## WellFormed, and the checks of a configuration: each refuses an ill-formed term -/

theorem test_wf_refuses_fetch_index_3 : (Instr.ixFetch 3).wf = false := by decide
theorem test_wf_refuses_exec_of_halt_opcode : (Instr.ixExec 0 2).wf = false := by decide
theorem test_wf_refuses_halt_slot_with_the_halt_bit : (Instr.ixExecHalt 4).wf = false := by decide
theorem test_wf_accepts_the_edges :
    (Instr.ixFetch 2).wf = true ∧ (Instr.ixExec 15 7).wf = true ∧ (Instr.ixExecHalt 3).wf = true := by
  decide

/-- 00_scope.md R9: too few rows, a row of 2^24, 257 image words, an image word of 4096 (V70-6). -/
theorem test_wfTable_refuses :
    wfTable { referenceConfig [] with ucode := referenceRowsLow } = false ∧
    wfTable (withRow 5 0x1000000) = false ∧
    wfTable (referenceConfig (List.replicate 257 0)) = false ∧
    wfTable (referenceConfig [0x1000]) = false := by decide +kernel
/-- V43-8. -/
theorem test_wfOneDriver_refuses : wfOneDriver (withRow 5 0x000003) = false := by decide +kernel
/-- V42-22. -/
theorem test_wfOneAluOp_refuses : wfOneAluOp (withRow 127 0x000600) = false := by decide +kernel
theorem test_step_names_the_failed_check :
    refusalOf (step { State.reset with cfg := referenceConfig [0x1000] }) = some .wfTable ∧
    refusalOf (step { State.reset with cfg := withRow 5 0x000003 }) = some .wfOneDriver ∧
    refusalOf (step { State.reset with cfg := withRow 127 0x000600 }) = some .wfOneAluOp := by
  decide +kernel
theorem reference_admitted : configRefusal (referenceConfig []) = none := by decide +kernel

/-! ## Decode: words written out from the spec's encodings -/

/-- 46_reference_microprogram.md R221: one bit per line. -/
theorem test_decode_lines_low :
    decode (.cw 0b000000000000000000000001#24) = .ok .tPcMar ∧
    decode (.cw 0b000000000000000000000010#24) = .ok .tMGpr ∧
    decode (.cw 0b000000000000000000000100#24) = .ok .tGprMar ∧
    decode (.cw 0b000000000000000000001000#24) = .ok .tGprM ∧
    decode (.cw 0b000000000000000000010000#24) = .ok .tGprPc ∧
    decode (.cw 0b000000000000000000100000#24) = .ok .ipc ∧
    decode (.cw 0b000000000000000001000000#24) = .ok .igpr ∧
    decode (.cw 0b000000000000000010000000#24) = .ok .iacc := by decide +kernel
theorem test_decode_lines_alu :
    decode (.cw 0b000000000000000100000000#24) = .ok .aA2g ∧
    decode (.cw 0b000000000000001000000000#24) = .ok .aAdd ∧
    decode (.cw 0b000000000000010000000000#24) = .ok .aCma ∧
    decode (.cw 0b000000000000100000000000#24) = .ok .aCmf ∧
    decode (.cw 0b000000000001000000000000#24) = .ok .aCla ∧
    decode (.cw 0b000000000010000000000000#24) = .ok .aClf ∧
    decode (.cw 0b000000000100000000000000#24) = .ok .aRol ∧
    decode (.cw 0b000000001000000000000000#24) = .ok .aRor := by decide +kernel
theorem test_decode_lines_high :
    decode (.cw 0b000000010000000000000000#24) = .ok .aOut ∧
    decode (.cw 0b000000100000000000000000#24) = .ok .ipcF0 ∧
    decode (.cw 0b000001000000000000000000#24) = .ok .ipcZ1 ∧
    decode (.cw 0b000010000000000000000000#24) = .ok .clrSc ∧
    decode (.cw 0b000100000000000000000000#24) = .ok .halt ∧
    decode (.cw 0b011000000000000000000000#24) = .ok .swap ∧
    decode (.cw 0b100000000000000000000000#24) = .ok .extract ∧
    decode (.cw 0b000000000000000000000000#24) = .ok .nopWord := by decide +kernel
/-- The second fetch row is two lines; half a swap is none (V44-4); index 3 is unreachable (R87). -/
theorem test_decode_rejects :
    decode (.cw 0b000000000000000000100010#24) = .error .noSingleRow ∧
    decode (.cw 0b001000000000000000000000#24) = .error .noSingleRow ∧
    decode (.ix 0b0000011#7) = .error .unreachableRow := by decide +kernel
/-- A composite word asserts each of its rows (30_encoding.md R81). -/
theorem test_asserted_rows :
    assertedRows 0x000022 = [.tMGpr, .ipc] ∧ assertedRows 0x600020 = [.ipc] ∧
    assertedRows 0x600000 = [.swap] := by decide +kernel
/-- V45, the index table: rows 0, 2; 4 and 7 of the halt window; 8, 18, 127. -/
theorem test_decode_index :
    decode (.ix 0b0000000#7) = .ok (.ixFetch 0) ∧ decode (.ix 0b0000010#7) = .ok (.ixFetch 2) ∧
    decode (.ix 0b0000100#7) = .ok (.ixExecHalt 0) ∧ decode (.ix 0b0000111#7) = .ok (.ixExecHalt 3) ∧
    decode (.ix 0b0001000#7) = .ok (.ixExec 1 0) ∧ decode (.ix 0b0010010#7) = .ok (.ixExec 2 2) ∧
    decode (.ix 0b1111111#7) = .ok (.ixExec 15 7) := by decide +kernel
/-- Opcode in bits 11:8, operand in bits 7:0 (30_encoding.md R84, V46). -/
theorem test_decode_instructions_low :
    decode (.iw 0b000000000000#12) = .ok (.hlt 0) ∧ decode (.iw 0b000100100000#12) = .ok (.add 0x20) ∧
    decode (.iw 0b001000001000#12) = .ok (.addi 8) ∧ decode (.iw 0b001100000111#12) = .ok (.sta 7) ∧
    decode (.iw 0b010000000001#12) = .ok (.jmp 1) ∧ decode (.iw 0b010100001010#12) = .ok (.jmpi 0x0A) ∧
    decode (.iw 0b011011111111#12) = .ok (.csr 0xFF) ∧
    decode (.iw 0b011100001001#12) = .ok (.isz 9) := by decide +kernel
theorem test_decode_instructions_high :
    decode (.iw 0b100000000000#12) = .ok (.cra 0) ∧ decode (.iw 0b100100000000#12) = .ok (.cta 0) ∧
    decode (.iw 0b101000000000#12) = .ok (.ita 0) ∧ decode (.iw 0b101100000000#12) = .ok (.crf 0) ∧
    decode (.iw 0b110000000000#12) = .ok (.ctf 0) ∧ decode (.iw 0b110100000000#12) = .ok (.sfz 0) ∧
    decode (.iw 0b111000000000#12) = .ok (.ror 0) ∧
    decode (.iw 0b111111111111#12) = .ok (.rol 255) := by decide +kernel

/-! ## The control lines, one pulse each -/

/-- V41-1. -/
theorem test_T_PC_MAR :
    seen (fun t => (t.mar, t.bus)) (exec .tPcMar { State.reset with pc := 0x2A }) = some (0x2A, 0x02A) := by
  decide +kernel
/-- V43-1. -/
theorem test_T_M_GPR :
    seen (·.gpr) (exec .tMGpr { machine [(0x0A, 1)] with mar := 0x0A }) = some 1 := by decide +kernel
/-- V41-2. -/
theorem test_T_GPR_MAR :
    seen (·.mar) (exec .tGprMar { State.reset with gpr := 0x7C5 }) = some 0xC5 := by decide +kernel
/-- V43-2. -/
theorem test_T_GPR_M :
    seen (·.mem) (exec .tGprM { State.reset with gpr := 0x024, mar := 7 }) = some [(7, 0x024)] := by
  decide +kernel
/-- V41-3. -/
theorem test_T_GPR_PC :
    seen (·.pc) (exec .tGprPc { State.reset with gpr := 0x4FF }) = some 0xFF := by decide +kernel
/-- V41-4. -/
theorem test_IPC_wraps : seen (·.pc) (exec .ipc { State.reset with pc := 0xFF }) = some 0 := by
  decide +kernel
/-- V41-5. -/
theorem test_IGPR_wraps_and_sets_Z :
    seen (fun t => (t.gpr, t.flg)) (exec .igpr { State.reset with gpr := 0xFFF }) = some (0, 2) := by
  decide +kernel
/-- V41-6. -/
theorem test_IACC_wraps_without_carry :
    seen (fun t => (t.acc, t.flg)) (exec .iacc { State.reset with acc := 0xFFF, flg := 1, gpr := 5 }) =
      some (0, 1) := by decide +kernel
/-- V42-6. -/
theorem test_A_A2G_after_Z :
    seen (fun t => (t.gpr, t.flg)) (exec .aA2g { State.reset with gpr := 0x123 }) = some (0, 0) := by
  decide +kernel
/-- V42-2. -/
theorem test_A_ADD_wraps :
    seen (fun t => (t.acc, t.flg)) (exec .aAdd { State.reset with acc := 0xFFF, gpr := 1, flg := 1 }) =
      some (0, 1) := by decide +kernel
/-- V42-8. -/
theorem test_A_CMA : seen (·.acc) (exec .aCma { State.reset with acc := 0xA5A }) = some 0x5A5 := by
  decide +kernel
/-- V42-10. -/
theorem test_A_CMF_after_Z :
    seen (·.flg) (exec .aCmf { State.reset with flg := 3, gpr := 7 }) = some 0 := by decide +kernel
/-- V42-11. -/
theorem test_A_CLA : seen (·.acc) (exec .aCla { State.reset with acc := 0x123 }) = some 0 := by
  decide +kernel
/-- V42-12. -/
theorem test_A_CLF_keeps_Z : seen (·.flg) (exec .aClf { State.reset with flg := 3 }) = some 2 := by
  decide +kernel
/-- V42-14. -/
theorem test_A_ROL :
    seen (fun t => (t.acc, t.flg)) (exec .aRol { State.reset with acc := 1, flg := 1, gpr := 1 }) =
      some (3, 0) := by decide +kernel
/-- V42-17. -/
theorem test_A_ROR :
    seen (fun t => (t.acc, t.flg)) (exec .aRor { State.reset with acc := 0x800, flg := 1, gpr := 1 }) =
      some (0xC00, 0) := by decide +kernel
/-- V42-20. -/
theorem test_A_OUT_inert :
    seen (fun t => (t.snapshot, t.draws)) (exec .aOut { State.reset with acc := 5, gpr := 1 }) =
      some ({ State.reset.snapshot with acc := 5, gpr := 1, step := 1, cw := 0x010000 }, 1) := by
  decide +kernel
/-- V45-2, V45-3. -/
theorem test_IPC_F0 :
    seen (fun t => (t.cw, t.pc)) (exec .ipcF0 { State.reset with pc := 6 }) = some (0x020020, 7) ∧
    seen (fun t => (t.cw, t.pc)) (exec .ipcF0 { State.reset with pc := 6, flg := 1 }) =
      some (0x020000, 6) := by decide +kernel
/-- V45-4, V45-5. -/
theorem test_IPC_Z1 :
    seen (fun t => (t.cw, t.pc)) (exec .ipcZ1 { State.reset with pc := 4, flg := 2 }) =
      some (0x040020, 5) ∧
    seen (fun t => (t.cw, t.pc)) (exec .ipcZ1 { State.reset with pc := 4, flg := 1, gpr := 5 }) =
      some (0x040000, 4) := by decide +kernel
/-- V45-7. -/
theorem test_CLR_SC_runs_row_0 :
    seen (fun t => (t.cw, t.mar, t.step)) (step { State.reset with step := 6, opr := 1, pc := 2 }) =
      some (0x000001, 2, 1) := by decide +kernel
/-- V45-9. -/
theorem test_HALT_stops_in_the_rising_edge :
    seen (fun t => (t.snapshot, t.mem)) (step { State.reset with step := 3, pc := 7 }) =
      some ({ State.reset.snapshot with pc := 7, step := 3, cw := 0x100000, halted := true }, []) := by
  decide +kernel
/-- V44-1, V44-2. -/
theorem test_SWAP :
    seen (fun t => (t.pc, t.gpr)) (exec .swap { State.reset with pc := 3, gpr := 0x60A }) =
      some (0x0A, 0x603) := by decide +kernel
/-- V44-5. -/
theorem test_EXTRACT :
    seen (fun t => (t.opr, t.flg, t.gpr)) (exec .extract { State.reset with gpr := 0x208, flg := 2 }) =
      some (2, 0, 0x208) := by decide +kernel
/-- V41-7. -/
theorem test_NOP_WORD_counts :
    seen (fun t => (t.step, t.flg)) (exec .nopWord State.reset) = some (1, 2) := by decide +kernel

/-! ## Composite words and index classes -/

/-- V43-3: the memory write goes to the new MAR. -/
theorem test_store_at_new_mar :
    seen (fun t => (t.mar, t.mem)) (runWord 0x00000C { State.reset with gpr := 0x3C5, mar := 0x10 }) =
      some (0xC5, [(0xC5, 0x3C5)]) := by decide +kernel
/-- V41-8, V44-3. -/
theorem test_latch_over_increment_and_broken_swap :
    seen (·.pc) (runWord 0x000030 { State.reset with gpr := 0x430, pc := 0x10 }) = some 0x30 ∧
    seen (fun t => (t.pc, t.gpr)) (runWord 0x600020 { State.reset with gpr := 0x60A, pc := 3 }) =
      some (4, 0x60A) := by decide +kernel
/-- V45-8: clear-step discards the whole row, halt included. -/
theorem test_clear_step_discards_halt :
    seen (fun t => (t.cw, t.mar, t.acc, t.step, t.halted))
      (step { State.reset with cfg := withRow 10 0x180080, step := 5, opr := 1, acc := 5, pc := 9 }) =
      some (0x000001, 9, 5, 1, false) := by decide +kernel
/-- V45-11: slot 4 of opcode 0 aliases row 4. -/
theorem test_IX_EXEC_HALT_aliases :
    seen (fun t => (t.acc, t.step)) (step { State.reset with cfg := withRow 4 0x000080, step := 7 }) =
      some (1, 8) := by decide +kernel
/-- V45-12: the last slot of the last window, then stuck. -/
theorem test_IX_EXEC_last_row :
    seen (fun t => (t.acc, t.step))
      (step { State.reset with cfg := withRow 127 0x000080, step := 10, opr := 15 }) = some (1, 11) := by
  decide +kernel
/-- V45, the last row of the index table: STEP 11 to 15 is stuck. -/
theorem test_IX_OVERRUN :
    faultOf (step { State.reset with step := 11 }) = some .windowOverrun ∧
    faultOf (step { State.reset with step := 15, opr := 7 }) = some .windowOverrun := by decide +kernel
/-- V45-1, second pulse: the second fetch row. -/
theorem test_IX_FETCH_second_row :
    seen (fun t => (t.gpr, t.pc, t.step)) (step { machine [(5, 0xD00)] with step := 1, pc := 5, mar := 5 }) =
      some (0xD00, 6, 2) := by decide +kernel

/-! ## The instructions of the reference set, V46 -/

/-- V46-1. -/
theorem test_HLT :
    seen (·.snapshot) (exec (.hlt 0) { State.reset with pc := 6 }) =
      some { pc := 7, gpr := 0, acc := 0, mar := 6, flg := 2, opr := 0, step := 3, cw := 0x100000,
             halted := true } := by decide +kernel
/-- V46-2, V46-3. -/
theorem test_ADD :
    seen (·.snapshot) (exec (.add 0x20) { machine [(0x20, 3)] with acc := 5 }) =
      some { pc := 1, gpr := 3, acc := 8, mar := 0x20, flg := 0, opr := 1, step := 6, cw := 0x000200,
             halted := false } ∧
    seen (fun t => (t.acc, t.flg)) (exec (.add 0x20) { machine [(0x20, 1)] with acc := 0xFFF, flg := 1 }) =
      some (0, 1) := by decide +kernel
/-- V46-5: bits 11:8 of the pointer are ignored. -/
theorem test_ADDI :
    seen (fun t => (t.acc, t.gpr, t.mar, t.pc, t.step)) (exec (.addi 8) (machine [(8, 0xF0A), (0x0A, 1)])) =
      some (1, 1, 0x0A, 1, 8) := by decide +kernel
/-- V46-6, V46-7. -/
theorem test_STA :
    seen (fun t => (t.mem, t.gpr, t.mar, t.flg)) (exec (.sta 7) { State.reset with acc := 0x024 }) =
      some ([(7, 0x024)], 0x024, 7, 0) ∧
    seen (fun t => (t.mem, t.flg)) (exec (.sta 7) (machine [(7, 9)])) = some ([], 2) := by decide +kernel
/-- V46-8. -/
theorem test_JMP :
    seen (fun t => (t.pc, t.gpr, t.mar, t.opr, t.step)) (exec (.jmp 1) { State.reset with pc := 4 }) =
      some (1, 0x401, 4, 4, 4) := by decide +kernel
/-- V46-9. -/
theorem test_JMPI :
    seen (fun t => (t.pc, t.gpr, t.mar)) (exec (.jmpi 0x0A) (machine [(0x0A, 0x603)])) =
      some (3, 0x603, 0x0A) := by decide +kernel
/-- V46-10, V46-11. -/
theorem test_CSR :
    seen (fun t => (t.mem, t.pc, t.gpr, t.mar)) (exec (.csr 0x0A) { State.reset with pc := 2 }) =
      some ([(0x0A, 0x603)], 0x0B, 0x603, 0x0A) ∧
    seen (fun t => (t.mem, t.pc)) (exec (.csr 0xFF) { State.reset with pc := 2 }) =
      some ([(0xFF, 0x603)], 0) := by decide +kernel
/-- V46-12, V46-13. -/
theorem test_ISZ :
    seen (fun t => (t.mem, t.pc, t.gpr, t.flg)) (exec (.isz 9) { machine [(9, 0xFFF)] with pc := 3 }) =
      some ([], 5, 0, 2) ∧
    seen (fun t => (t.mem, t.pc, t.gpr, t.flg)) (exec (.isz 9) { machine [(9, 5)] with pc := 3 }) =
      some ([(9, 6)], 4, 6, 0) := by decide +kernel
/-- V46-14. -/
theorem test_CRA :
    seen (fun t => (t.acc, t.pc, t.gpr, t.opr)) (exec (.cra 0) { State.reset with acc := 0x123 }) =
      some (0, 1, 0x800, 8) := by decide +kernel
/-- V46-15. -/
theorem test_CTA : seen (·.acc) (exec (.cta 0) { State.reset with acc := 5 }) = some 0xFFA := by
  decide +kernel
/-- V46-17. -/
theorem test_ITA :
    seen (fun t => (t.acc, t.flg)) (exec (.ita 0) { State.reset with acc := 0xFFF }) = some (0, 0) := by
  decide +kernel
/-- V46-18. -/
theorem test_CRF : seen (·.flg) (exec (.crf 0) { State.reset with flg := 1 }) = some 0 := by decide +kernel
/-- V46-19. -/
theorem test_CTF : seen (·.flg) (exec (.ctf 0) State.reset) = some 1 := by decide +kernel
/-- V46-21, V46-26. -/
theorem test_SFZ :
    seen (·.pc) (exec (.sfz 0) { State.reset with pc := 5, flg := 1 }) = some 6 ∧
    seen (·.pc) (exec (.sfz 0) { State.reset with pc := 0xFF }) = some 1 := by decide +kernel
/-- V46-22, V46-23. -/
theorem test_ROR :
    seen (fun t => (t.acc, t.flg)) (exec (.ror 0) { State.reset with acc := 3 }) = some (1, 1) ∧
    seen (fun t => (t.acc, t.flg)) (exec (.ror 0) { State.reset with acc := 0x800, flg := 1 }) =
      some (0xC00, 0) := by decide +kernel
/-- V46-24, V46-25. -/
theorem test_ROL :
    seen (fun t => (t.acc, t.flg)) (exec (.rol 0) { State.reset with acc := 0x800 }) = some (0, 1) ∧
    seen (fun t => (t.acc, t.flg)) (exec (.rol 0) { State.reset with acc := 1, flg := 1 }) =
      some (3, 0) := by decide +kernel

/-! ## Construction and reset, V70 -/

/-- V70-1, V70-6. -/
theorem test_construct :
    seen (fun t => (t.snapshot, t.mem)) (construct (referenceConfig [0x800, 0x208, 0])) =
      some (State.reset.snapshot, [(0, 0x800), (1, 0x208)]) ∧
    refusalOf (construct (referenceConfig [0x1000])) = some .wfTable := by decide +kernel
/-- V70-2. -/
theorem test_first_pulse :
    seen (fun t => (t.cw, t.mar, t.step, t.flg)) (step State.reset) = some (1, 0, 1, 2) := by decide +kernel
/-- V70-3, V70-4. -/
theorem test_host_reset :
    seen (fun t => (t.snapshot, t.mem))
      (State.hostReset { machine [(8, 0x00B)] with
        pc := 2, gpr := 0x00A, acc := 1, mar := 0x0A, flg := 1, opr := 2, step := 7, cw := 2 }) =
      some (State.reset.snapshot, [(8, 0x00B)]) ∧
    refusalOf (State.hostReset { State.reset with halted := true }) = some .resetWhenHalted := by
  decide +kernel

/-! ## `withFetchWord`: the next step runs the word -/

theorem test_withFetchWord_control_word :
    seen (·.acc) (step (State.reset.withFetchWord 8 0x80)) = some 1 ∧
    seen (·.cw) (step (State.reset.withFetchWord 24 0x600000)) = some 0x600000 ∧
    decodeTableWord 8 0x80 = some .iacc ∧ decodeTableWord 24 0x600000 = some .swap := by decide +kernel
theorem test_withFetchWord_index_and_instruction :
    (State.reset.withFetchWord 8 0x3B).selectIndex = .ixExec 7 3 ∧
    ((State.reset.withFetchWord 16 0x208).mem, (State.reset.withFetchWord 16 0x208).step) =
      ([(0, 0x208)], 0) ∧
    decodeTableWord 8 0x3B = some (.ixExec 7 3) ∧ decodeTableWord 16 0x208 = some (.addi 8) := by
  decide +kernel

/-! ## Witnesses: the hypotheses of each statement are met together -/

/-- Opcode 3 at its third execute row, `T_GPR_M`. -/
def storing : State := { State.reset with step := 5, opr := 3, gpr := 0x024, mar := 7 }

/-- Row 0 halts (and asserts IPC), and a clear-step row forces it. -/
def haltingRowZero : State :=
  { State.reset with cfg := withRow 0 0x100020, step := 6, opr := 1, pc := 9 }

/-- A layout in which the PC-increment line is also a GPR output line. -/
def ipcDrives : Layout := { referenceLayout with ipc := lineTGprMar }

/-- A layout in which the PC-increment line is also the line of the sum. -/
def ipcAdds : Layout := { referenceLayout with ipc := lineAdd }

/-- A layout in which every register has the sentinel for its increment mask. -/
def countingLayout : Layout :=
  { referenceLayout with
    pc := { referenceLayout.pc with increment := .always }
    gpr := { referenceLayout.gpr with increment := .always }
    acc := { referenceLayout.acc with increment := .always }
    mar := { referenceLayout.mar with increment := .always }
    flg := { referenceLayout.flg with increment := .always }
    opr := { referenceLayout.opr with increment := .always } }

/-- A machine of that layout whose next pulse looks up the word `w`; PC and OPR about to wrap. -/
def counting (w : Nat) : State :=
  { State.reset with
    cfg := { withRow 0 w with layout := countingLayout }
    pc := 0xFF, gpr := 0x012, acc := 0x000, mar := 7, opr := 0xF }

theorem running_reset : Running State.reset := ⟨reference_admitted, rfl⟩
theorem running_storing : Running storing := ⟨reference_admitted, rfl⟩

theorem witness_DecodeOfEncodeIsTheInstruction :
    ((Instr.ixExec 15 7).wf = true ∧ encode (.ixExec 15 7) = some (.ix 127)) ∧
    ((Instr.addi 8).wf = true ∧ encode (.addi 8) = some (.iw 0x208)) ∧ encode .ixOverrun = none := by
  decide +kernel
theorem witness_EncodeOfDecodeIsTheWord :
    decode (.cw 0x800000) = .ok .extract ∧ decode (.ix 4) = .ok (.ixExecHalt 0) ∧
    decode (.iw 0xFFF) = .ok (.rol 255) := by decide +kernel
theorem witness_RowsAreAssertedByTheirTest :
    encode .tGprM = some (.cw 0x000008) ∧ encode .swap = some (.cw 0x600000) ∧
    encode .nopWord = some (.cw 0) := by decide
theorem witness_RowIndexFollowsStepAndOpcode :
    (State.reset.step ≤ 2 ∧ ({ State.reset with step := 2 } : State).nextRow = some 2) ∧
    (({ State.reset with step := 3 } : State).nextRow = some 4) ∧
    (({ State.reset with step := 10, opr := 15 } : State).nextRow = some 127) ∧
    (({ State.reset with step := 11 } : State).nextRow = none) := by decide +kernel
theorem witness_EveryRowButThreeIsReachable :
    State.reset.nextRow = some 0 ∧ ({ State.reset with step := 2, opr := 9 } : State).nextRow = some 2 ∧
    ({ State.reset with step := 3 } : State).nextRow = some 4 ∧
    ({ State.reset with step := 10 } : State).nextRow = some 7 ∧
    ({ State.reset with step := 3, opr := 1 } : State).nextRow = some 8 ∧
    ({ State.reset with step := 10, opr := 15 } : State).nextRow = some 127 ∧
    (127 : Nat) < 128 ∧ (127 : Nat) ≠ 3 := by decide +kernel
theorem witness_StepRunsTheDecodedInstruction :
    Running State.reset ∧ State.reset.nextRow = some 0 ∧ rowAt State.reset.cfg 0 = some 1 ∧
    decode (.cw 1) = .ok .tPcMar := ⟨running_reset, by decide +kernel⟩
theorem witness_IndexClassesPublishTheEffectiveWord :
    Running State.reset ∧ (Instr.ixExec 13 0).wf = true ∧ encode (.ixExec 13 0) = some (.ix 104) :=
  ⟨running_reset, by decide +kernel⟩
theorem witness_StuckExactlyPastTheWindow :
    Running { State.reset with step := 11 } ∧ (10 : StepCount) < 11 ∧ Running { State.reset with step := 10 } :=
  ⟨⟨reference_admitted, rfl⟩, by decide, ⟨reference_admitted, rfl⟩⟩
theorem witness_HaltIsAbsorbing :
    configRefusal State.reset.cfg = none ∧ ({ State.reset with halted := true } : State).halted = true :=
  ⟨reference_admitted, rfl⟩
theorem witness_ConstructionLoadsTheImage :
    configRefusal (referenceConfig []) = none ∧ configRefusal (withRow 5 3) = some .wfOneDriver := by
  decide +kernel
theorem witness_ResetCallZeroesRegistersAndKeepsMemory :
    ({ State.reset with halted := true } : State).halted = true ∧ State.reset.halted = false := by decide
theorem onReference_reset : OnReference State.reset := ⟨rfl, reference_admitted⟩
theorem construct_reference : construct (referenceConfig []) = .next State.reset := by
  unfold construct
  rw [reference_admitted]
  rfl
theorem witness_FirstPulseAfterResetSetsZ :
    ∃ t, OnReference State.reset ∧ construct (referenceConfig []) = .next State.reset ∧
      step State.reset = .next t := by
  obtain ⟨t, h, -⟩ := exists_next (f := (·.cw)) (v := 1) (o := step State.reset) (by decide +kernel)
  exact ⟨t, onReference_reset, construct_reference, h⟩
theorem witness_FirstPulseAfterReset_second_clause :
    ∃ r s t, OnReference r ∧ State.hostReset r = .next s ∧ step s = .next t := by
  obtain ⟨t, h, -⟩ := exists_next (f := (·.cw)) (v := 1)
    (o := match State.hostReset storing with | .next s => step s | o => o) (by decide +kernel)
  exact ⟨storing, _, t, ⟨rfl, reference_admitted⟩, rfl, h⟩
/-- One witness for each clause. Tables: one row short, an image too long, an image word too wide. Rows: too
wide; two drivers in the row itself, in a row 0 that asserts clear-step, and only with `L_IPC` in a
conditional row; the same three for ALU operations; and accepted rows, a clear-step row that asserts
everything among them. The layouts in which `L_IPC` is a driver's or an ALU operation's line are admitted
with the reference table. -/
theorem witness_BadRowsAreRefusedByName :
    (({ referenceConfig [] with ucode := referenceRowsLow } : Config).ucode.length ≠ 128 ∧
      256 < (List.replicate 257 0).length ∧ ∃ v ∈ [0x1000], 4096 ≤ v) ∧
    (configRefusal (referenceConfig []) = none ∧ (127 : Nat) < 128 ∧ 2 ^ 24 ≤ 0x1000000) ∧
    ((drivers referenceLayout 0x000003).length = 2 ∧ (0x000003 : ControlWord) &&& referenceLayout.clr = 0 ∧
      (drivers referenceLayout 0x080003).length = 2 ∧ (0x080003 : ControlWord) &&& referenceLayout.clr ≠ 0) ∧
    (configRefusal { referenceConfig [] with layout := ipcDrives } = none ∧
      (drivers ipcDrives 0x020001).length = 1 ∧ (drivers ipcDrives (0x020001 ||| ipcDrives.ipc)).length = 2) ∧
    ((requestedOps referenceLayout 0x000600).length = 2 ∧ drivers referenceLayout 0x000600 = [] ∧
      (requestedOps referenceLayout 0x080600).length = 2 ∧ drivers referenceLayout 0x080600 = []) ∧
    (configRefusal { referenceConfig [] with layout := ipcAdds } = none ∧
      (requestedOps ipcAdds 0x020400).length = 1 ∧
      (requestedOps ipcAdds (0x020400 ||| ipcAdds.ipc)).length = 2 ∧
      drivers ipcAdds (0x020400 ||| ipcAdds.ipc) = []) ∧
    ((0xFFFFFF : ControlWord) &&& referenceLayout.clr ≠ 0 ∧ (drivers referenceLayout 0x020001).length = 1 ∧
      (drivers referenceLayout (0x020001 ||| referenceLayout.ipc)).length = 1) := by decide +kernel
/-- The same rows, refused by name. -/
theorem test_bad_rows :
    refusalOf (construct (withRow 0 0x080003)) = some .wfOneDriver ∧
    refusalOf (construct (withRow 0 0x080600)) = some .wfOneAluOp ∧
    refusalOf (construct { withRow 5 0x020001 with layout := ipcDrives }) = some .wfOneDriver ∧
    refusalOf (construct { withRow 5 0x020400 with layout := ipcAdds }) = some .wfOneAluOp ∧
    refusalOf (construct (withRow 5 0xFFFFFF)) = none := by decide +kernel
theorem witness_ReadAfterWrite : Memory.wf [(0, 1), (255, 2)] = true := by decide
theorem witness_CanonicalMemoriesAreEqualByReads :
    ∃ m n : Memory, m.wf = true ∧ n.wf = true ∧ ∀ a : Addr, m.read a = n.read a :=
  ⟨[(3, 1)], Memory.write [] 3 1, by decide, by decide, fun _ => rfl⟩
theorem storing_next :
    ∃ t, step storing = .next t ∧ t.halted = false ∧ t.cw = 0x000008 ∧ t.draws = 0 := by
  obtain ⟨t, h, hv⟩ := exists_next (f := fun t => (t.halted, t.cw, t.draws)) (v := (false, 8, 0))
    (o := step storing) (by decide +kernel)
  simp only [Prod.mk.injEq] at hv
  exact ⟨t, h, hv⟩
theorem reset_next :
    ∃ t, step State.reset = .next t ∧ t.halted = false ∧ t.cw = 0x000001 ∧ t.draws = 0 := by
  obtain ⟨t, h, hv⟩ := exists_next (f := fun t => (t.halted, t.cw, t.draws)) (v := (false, 1, 0))
    (o := step State.reset) (by decide +kernel)
  simp only [Prod.mk.injEq] at hv
  exact ⟨t, h, hv⟩
theorem witness_EveryStepKeepsMemoryCanonical :
    (∃ t, storing.mem.wf = true ∧ step storing = .next t) ∧
    (∃ t, storing.mem.wf = true ∧ exec .tGprM storing = .next t) := by
  obtain ⟨t, h, -⟩ := storing_next
  obtain ⟨u, hu, -⟩ := exists_next (f := (·.cw)) (v := 8) (o := exec .tGprM storing) (by decide +kernel)
  exact ⟨⟨t, rfl, h⟩, ⟨u, rfl, hu⟩⟩
theorem witness_ConstructionGivesCanonicalMemory :
    construct (referenceConfig []) = .next State.reset := construct_reference
theorem witness_StoresGoToTheNewMar :
    (∃ t, Running storing ∧ storing.mem.wf = true ∧ step storing = .next t ∧ t.halted = false ∧
      t.cw &&& storing.cfg.layout.memIn ≠ 0) ∧
    (∃ t, Running State.reset ∧ State.reset.mem.wf = true ∧ step State.reset = .next t ∧
      t.halted = false ∧ t.cw &&& State.reset.cfg.layout.memIn = 0) := by
  obtain ⟨t, h, hh, hc, -⟩ := storing_next
  obtain ⟨u, k, kh, kc, -⟩ := reset_next
  exact ⟨⟨t, running_storing, rfl, h, hh, by rw [hc]; decide⟩,
    ⟨u, running_reset, rfl, k, kh, by rw [kc]; decide⟩⟩
theorem witness_LatchedRegistersHoldTheBus :
    ∃ t, Running State.reset ∧ step State.reset = .next t ∧ t.halted = false ∧
      t.cw &&& (masksOf State.reset.cfg.layout .mar).input ≠ 0 := by
  obtain ⟨u, k, kh, kc, -⟩ := reset_next
  exact ⟨u, running_reset, k, kh, by rw [kc]; decide⟩
/-- A driven pulse and an undriven one. -/
theorem witness_HighLevelDrivesBusAndSum :
    (∃ t, Running State.reset ∧ step State.reset = .next t ∧ t.halted = false ∧
      drivers State.reset.cfg.layout t.cw = [.reg .pc]) ∧
    (∃ t, Running { State.reset with step := 2 } ∧ step { State.reset with step := 2 } = .next t ∧
      t.halted = false ∧ drivers State.reset.cfg.layout t.cw = []) := by
  obtain ⟨u, k, kh, kc, -⟩ := reset_next
  obtain ⟨t, h, hv⟩ := exists_next (f := fun t => (t.halted, t.cw)) (v := (false, 0x800000))
    (o := step { State.reset with step := 2 }) (by decide +kernel)
  simp only [Prod.mk.injEq] at hv
  exact ⟨⟨u, running_reset, k, kh, by rw [kc]; decide⟩,
    ⟨t, ⟨reference_admitted, rfl⟩, h, hv.1, by rw [hv.2]; decide⟩⟩
theorem witness_BusAndSumCarryNothing : State.reset.halted = false := rfl
theorem witness_TheConfigurationNeverChanges :
    (∃ t, step State.reset = .next t) ∧ (∃ t, exec .tPcMar State.reset = .next t) := by
  obtain ⟨u, k, -⟩ := reset_next
  obtain ⟨t, h, -⟩ := exists_next (f := (·.cw)) (v := 1) (o := exec .tPcMar State.reset) (by decide +kernel)
  exact ⟨⟨u, k⟩, ⟨t, h⟩⟩
/-- A halt row, and a halting row 0 that a clear-step row forces. -/
theorem witness_AHaltingPulseChangesOnlyCwAndHalted :
    (∃ t, Running { State.reset with step := 3 } ∧
      ({ State.reset with step := 3 } : State).nextRow = some 4 ∧ rowAt State.reset.cfg 4 = some 0x100000 ∧
      step { State.reset with step := 3 } = .next t ∧ t.halted = true) ∧
    (∃ t, Running haltingRowZero ∧ haltingRowZero.nextRow = some 11 ∧
      rowAt haltingRowZero.cfg 11 = some 0x080000 ∧
      haltingRowZero.workingWord 0x080000 &&& haltingRowZero.cfg.layout.clr ≠ 0 ∧
      step haltingRowZero = .next t ∧ t.halted = true) := by
  obtain ⟨t, h, hv⟩ := exists_next (f := (·.halted)) (v := true)
    (o := step { State.reset with step := 3 }) (by decide +kernel)
  obtain ⟨u, k, kv⟩ := exists_next (f := (·.halted)) (v := true) (o := step haltingRowZero) (by decide +kernel)
  exact ⟨⟨t, ⟨reference_admitted, rfl⟩, by decide +kernel, by decide +kernel, h, hv⟩,
    ⟨u, ⟨by decide +kernel, rfl⟩, by decide +kernel, by decide +kernel, by decide +kernel, k, kv⟩⟩
/-- 45_sequencer.md R200 (b), R201; STEP 0 is log entry 13. -/
theorem test_halting_row_zero :
    seen (fun t => (t.cw, t.halted, t.step, t.pc)) (step haltingRowZero) =
      some (0x100020, true, 0, 9) := by decide +kernel
theorem witness_ClearStepDiscardsTheRest :
    ((0x180080 : ControlWord) &&& State.reset.cfg.layout.clr ≠ 0 ∧
      State.reset.workingWord 0x180080 &&& State.reset.cfg.layout.clr ≠ 0 ∧
      State.reset.workingWord 0x080000 &&& State.reset.cfg.layout.clr ≠ 0) ∧
    (State.reset.halted = false ∧ seen (·.cw) (runWord 0x180080 State.reset) = some 0x000001) ∧
    (rowAt State.reset.cfg 0 = some 0x000001 ∧ (0x000001 : ControlWord) &&& State.reset.cfg.layout.hlt = 0) ∧
    (haltingRowZero.halted = false ∧ rowAt haltingRowZero.cfg 0 = some 0x100020 ∧
      (0x100020 : ControlWord) &&& haltingRowZero.cfg.layout.hlt ≠ 0) := by decide +kernel
/-- The premises of every statement on the reference layout: `TransferLinesMoveOneWord` to
`CompositeWordsFollowThePhaseOrder`, `AddAddsAMemoryWord` to `HltHaltsAfterItsFetch`. -/
theorem witness_reference_layout :
    OnReferenceLayout storing ∧ storing.halted = false ∧ storing.mem.wf = true := ⟨rfl, rfl, rfl⟩
theorem witness_StoreLineWritesOneWord :
    ∃ t, OnReferenceLayout storing ∧ storing.halted = false ∧ storing.mem.wf = true ∧
      exec .tGprM storing = .next t := by
  obtain ⟨u, hu, -⟩ := exists_next (f := (·.cw)) (v := 8) (o := exec .tGprM storing) (by decide +kernel)
  exact ⟨u, rfl, rfl, rfl, hu⟩
theorem witness_ClearStepAndHaltLines :
    (OnReferenceLayout State.reset ∧ rowAt State.reset.cfg 0 = some 0x000001 ∧
      (0x000001 : ControlWord) &&& 0x100000 = 0 ∧ configRefusal State.reset.cfg = none) ∧
    (OnReferenceLayout haltingRowZero ∧ haltingRowZero.halted = false ∧
      rowAt haltingRowZero.cfg 0 = some 0x100020 ∧ (0x100020 : ControlWord) &&& 0x100000 ≠ 0) :=
  ⟨⟨rfl, by decide +kernel, by decide, reference_admitted⟩, ⟨rfl, rfl, by decide +kernel, by decide⟩⟩
/-- For each clause of the statement, a word that changes its register. -/
theorem witness_RegistersChangeOnlyByTheirLines :
    OnReferenceLayout storing ∧
    seen (·.pc) (runWord 0x000020 storing) = some 1 ∧ seen (·.gpr) (runWord 0x000040 storing) = some 0x025 ∧
    seen (·.acc) (runWord 0x000200 storing) = some 0x024 ∧ seen (·.mar) (runWord 0x000004 storing) = some 0x24 ∧
    seen (·.flg) (runWord 0x000800 storing) = some 1 ∧
    seen (·.opr) (runWord 0x800000 storing) = some 0 ∧
    seen (·.mem) (runWord 0x000008 storing) = some [(7, 0x024)] := ⟨rfl, by decide +kernel⟩
/-- The premises of the statements for every configuration (`IncrementLinesAddOne`, `AluOperations`,
`AluRotations`, `RouterCombinations`, `ZFollowsGprEveryPulse`): each of these words, as row 0 under a
layout in which every register increments always, runs a pulse that completes and publishes it. -/
theorem counting_pulses :
    [0x000000, 0x000100, 0x000200, 0x000400, 0x000800, 0x001000, 0x002000, 0x004000, 0x008000, 0x600000,
      0x800000].all (fun w => configRefusal (counting w).cfg == none && (counting w).nextRow == some 0 &&
        seen (fun t => (t.halted, t.cw)) (step (counting w)) == some (false, BitVec.ofNat 24 w)) = true := by
  decide +kernel
/-- For the word 0 every premise of the increments holds at once, and of the second clause of Z. -/
theorem witness_IncrementLinesAddOne :
    ∃ t, Running (counting 0) ∧ (counting 0).nextRow = some 0 ∧ rowAt (counting 0).cfg 0 = some 0 ∧
      step (counting 0) = .next t ∧ t.halted = false ∧ t.cw = 0 ∧ (0 : ControlWord) ≠ countingLayout.swap ∧
      (0 : ControlWord) ≠ countingLayout.extract ∧ ∀ m : ControlWord, 0 &&& m = 0 := by
  obtain ⟨t, h, hv⟩ := exists_next (f := fun t => (t.halted, t.cw)) (v := (false, 0))
    (o := step (counting 0)) (by decide +kernel)
  simp only [Prod.mk.injEq] at hv
  exact ⟨t, ⟨by decide +kernel, rfl⟩, by decide +kernel, by decide +kernel, h, hv.1, hv.2, by decide, by decide,
    fun m => BitVec.zero_and⟩
/-- For each ALU operation's word, the masks of the clauses about it, beside `counting_pulses`. -/
theorem witness_AluOperations :
    let l := countingLayout
    (0x000100 &&& l.gpr.input = 0 ∧ 0x000100 ≠ l.swap ∧ 0x000100 &&& l.a2g ≠ 0) ∧
    (0x000200 &&& l.acc.input = 0 ∧ 0x000200 &&& l.add ≠ 0) ∧
    (0x000400 &&& l.acc.input = 0 ∧ 0x000400 &&& l.cma ≠ 0) ∧
    (0x001000 &&& l.acc.input = 0 ∧ 0x001000 &&& l.cla ≠ 0) ∧
    (0x000800 &&& l.flg.input = 0 ∧ 0x000800 &&& l.cmf ≠ 0) ∧
    (0x002000 &&& l.flg.input = 0 ∧ 0x002000 &&& l.clf ≠ 0) := by decide
theorem witness_AluRotations :
    let l := countingLayout
    (0x004000 &&& l.rol ≠ 0 ∧ 0x004000 &&& l.acc.input = 0 ∧ 0x004000 &&& l.flg.input = 0) ∧
    (0x008000 &&& l.ror ≠ 0 ∧ 0x008000 &&& l.acc.input = 0 ∧ 0x008000 &&& l.flg.input = 0) := by decide
theorem witness_RouterCombinations :
    let l := countingLayout
    (0x600000 = l.swap ∧ 0x600000 &&& l.pc.input = 0 ∧ 0x600000 &&& l.gpr.input = 0) ∧
    (0x800000 = l.extract ∧ 0x800000 ≠ l.swap ∧ 0x800000 &&& l.opr.input = 0) ∧
    (0x000000 ≠ l.swap ∧ 0x000000 ≠ l.extract ∧ 0x000000 &&& l.pc.input = 0 ∧ 0x000000 &&& l.gpr.input = 0 ∧
      0x000000 &&& l.opr.input = 0) := by decide
/-- 41_register_ops.md R133, R132, 40_clock_phases.md R113: the sentinel on any register; the sum of the
starting values; the swap of the incremented ones. -/
theorem test_every_register_counts :
    seen (fun t => (t.pc, t.gpr, t.acc)) (step (counting 0)) = some (0x00, 0x013, 0x001) ∧
    seen (fun t => (t.mar, t.opr, t.step)) (step (counting 0)) = some (0x08, 0, 1) ∧
    seen (fun t => (t.acc, t.gpr)) (step (counting 0x000200)) = some (0x012, 0x013) ∧
    seen (fun t => (t.pc, t.gpr)) (step (counting 0x600000)) = some (0x13, 0x000) := by decide +kernel
theorem witness_ZFollowsGprEveryPulse :
    (∃ t, OnReferenceLayout storing ∧ Running storing ∧ step storing = .next t ∧ t.halted = false) ∧
    (∃ t, Running (counting 0) ∧ step (counting 0) = .next t ∧ t.halted = false ∧
      t.cw &&& (counting 0).cfg.layout.flg.input = 0) := by
  obtain ⟨t, h, hh, -⟩ := storing_next
  obtain ⟨u, k, kv⟩ := exists_next (f := fun t => (t.halted, t.cw)) (v := (false, 0))
    (o := step (counting 0)) (by decide +kernel)
  simp only [Prod.mk.injEq] at kv
  exact ⟨⟨t, rfl, running_storing, h, hh⟩,
    ⟨u, ⟨by decide +kernel, rfl⟩, k, kv.1, by rw [kv.2]; decide⟩⟩
/-- A counting pulse, and one that clears STEP. -/
theorem witness_StepCountsEveryPulse :
    (∃ t, OnReferenceLayout storing ∧ Running storing ∧ step storing = .next t ∧ t.halted = false ∧
      storing.nextRow = some 26 ∧ rowAt storing.cfg 26 = some 0x000008) ∧
    (∃ t, step { storing with step := 6 } = .next t ∧ t.halted = false ∧
      ({ storing with step := 6 } : State).nextRow = some 27 ∧ rowAt storing.cfg 27 = some 0x080000) := by
  obtain ⟨t, h, hh, -⟩ := storing_next
  obtain ⟨u, k, hv⟩ := exists_next (f := (·.halted)) (v := false)
    (o := step { storing with step := 6 }) (by decide +kernel)
  exact ⟨⟨t, rfl, running_storing, h, hh, by decide +kernel⟩, ⟨u, k, hv, by decide +kernel⟩⟩
/-- Both kinds of instruction boundary: STEP 0, and a row that asserts clear-step. -/
theorem witness_runs_from_a_boundary :
    (OnReference State.reset ∧ State.reset.halted = false ∧ AtBoundary State.reset) ∧
    (OnReference { State.reset with step := 6, opr := 1 } ∧
      AtBoundary { State.reset with step := 6, opr := 1 }) :=
  ⟨⟨onReference_reset, rfl, .inl rfl⟩,
    ⟨⟨rfl, reference_admitted⟩, .inr ⟨11, 0x080000, by decide +kernel, by decide +kernel, by decide⟩⟩⟩
/-- The window's first and last step for opcode 2. -/
theorem witness_ReferenceMachineNeverSticks :
    (OnReference State.reset ∧ WithinWindow State.reset) ∧
    (OnReference { State.reset with step := 8, opr := 2 } ∧
      WithinWindow { State.reset with step := 8, opr := 2 }) :=
  ⟨⟨onReference_reset, .inr (by decide)⟩, ⟨⟨rfl, reference_admitted⟩, .inr (by decide)⟩⟩
theorem witness_ResetStatesAreWithinTheWindow :
    construct (referenceConfig []) = .next State.reset ∧ ∃ s, State.hostReset storing = .next s :=
  ⟨construct_reference, _, rfl⟩
theorem reference_drives_what_it_latches :
    (effectiveWords (referenceConfig [])).all
      (fun w => !latchesBus referenceLayout w || !(drivers referenceLayout w).isEmpty) = true := by
  decide +kernel
theorem witness_TheBusDrawIsNeverObserved :
    DrivesWhatItLatches State.reset.cfg ∧
      SameButBus State.reset { State.reset with bus := 5, sum := 6, draws := 7 } := by
  refine ⟨fun w hw hl he => ?_, rfl⟩
  have h := List.all_eq_true.1 reference_drives_what_it_latches w hw
  rw [show latchesBus referenceLayout w = true from hl, show drivers referenceLayout w = [] from he] at h
  exact absurd h (by decide)

end Sys2Proof.Tests
end

namespace Sys2Proof.Machine

/-! ### The row a pulse looks up, in numbers (45_sequencer.md R193 to R196) -/

theorem le_lastFetchStep_iff {c : StepCount} : c ≤ Config.lastFetchStep ↔ c.toNat < 3 := by
  simp [BitVec.le_def]; omega

theorem le_stepMax_iff {c : StepCount} : c ≤ Config.stepMax ↔ c.toNat ≤ 10 := by
  simp [BitVec.le_def]

theorem opcode_ne_zero_iff {o : Opcode} : o ≠ 0 ↔ o.toNat ≠ 0 := by
  simp [BitVec.toNat_eq]

/-- The slot field of a step in the execute window. -/
theorem slot_toNat {c : StepCount} (h : 3 ≤ c.toNat) (h' : c.toNat ≤ 10) :
    ((c - Config.nFetch).setWidth Config.slotWidth).toNat = c.toNat - 3 := by
  simp [BitVec.toNat_sub]; omega

theorem nextRow_of_fetch {s : State} (h : s.step.toNat < 3) : s.nextRow = some s.step.toNat := by
  simp only [State.nextRow, State.selectIndex, le_lastFetchStep_iff, if_pos h]
  simp; omega

theorem nextRow_of_execute {s : State} (h : 3 ≤ s.step.toNat) (h' : s.step.toNat ≤ 10) (ho : s.opr ≠ 0) :
    s.nextRow = some (8 * s.opr.toNat + (s.step.toNat - 3)) := by
  simp only [State.nextRow, State.selectIndex, le_lastFetchStep_iff, le_stepMax_iff, if_neg h.not_gt,
    if_pos h', if_neg ho, slot_toNat h h']
  rw [← Nat.shiftLeft_add_eq_or_of_lt (show s.step.toNat - 3 < 2 ^ 3 by omega), Nat.shiftLeft_eq, mul_comm]

theorem nextRow_of_haltWindow {s : State} (h : 3 ≤ s.step.toNat) (h' : s.step.toNat ≤ 10) (ho : s.opr = 0) :
    s.nextRow = some (4 + (s.step.toNat - 3) % 4) := by
  have hor : ∀ k < 8, Config.haltBit ||| k = 4 + k % 4 := by decide
  simp only [State.nextRow, State.selectIndex, le_lastFetchStep_iff, le_stepMax_iff, if_neg h.not_gt,
    if_pos h', if_pos ho, haltBit_or_slotBesideHaltBit, slot_toNat h h']
  rw [hor _ (by omega)]

theorem nextRow_of_overrun {s : State} (h : 10 < s.step.toNat) : s.nextRow = none := by
  simp only [State.nextRow, State.selectIndex, le_lastFetchStep_iff, le_stepMax_iff, if_neg h.not_ge,
    if_neg (show ¬ s.step.toNat < 3 by omega)]

/-- Every row that is looked up is a fetch row, a row of an opcode's window or a row of the halt window. -/
theorem nextRow_some_cases {s : State} {i : Nat} (e : s.nextRow = some i) :
    (s.step.toNat < 3 ∧ i = s.step.toNat) ∨
    (3 ≤ s.step.toNat ∧ s.step.toNat ≤ 10 ∧ s.opr ≠ 0 ∧ i = 8 * s.opr.toNat + (s.step.toNat - 3)) ∨
    (3 ≤ s.step.toNat ∧ s.step.toNat ≤ 10 ∧ s.opr = 0 ∧ i = 4 + (s.step.toNat - 3) % 4) := by
  by_cases hfetch : s.step.toNat < 3
  · rw [nextRow_of_fetch hfetch] at e
    exact .inl ⟨hfetch, by simpa using e.symm⟩
  have h3 : 3 ≤ s.step.toNat := by omega
  by_cases hexec : s.step.toNat ≤ 10
  · by_cases ho : s.opr = 0
    · rw [nextRow_of_haltWindow h3 hexec ho] at e
      exact .inr (.inr ⟨h3, hexec, ho, by simpa using e.symm⟩)
    · rw [nextRow_of_execute h3 hexec ho] at e
      exact .inr (.inl ⟨h3, hexec, ho, by simpa using e.symm⟩)
  · rw [nextRow_of_overrun (by omega)] at e
    cases e

/-! ### The map of the 128 rows (30_encoding.md R87) -/

/-- What a looked-up row says of STEP and OPR. -/
theorem step_opr_of_nextRow {s : State} {i : Nat} (e : s.nextRow = some i) :
    i < 128 ∧ i ≠ 3 ∧ (i < 3 → s.step.toNat = i) ∧
    (4 ≤ i → i < 8 → s.opr = 0 ∧ (s.step.toNat = i - 1 ∨ s.step.toNat = i + 3)) ∧
    (8 ≤ i → s.opr.toNat = i / 8 ∧ s.step.toNat = i % 8 + 3) := by
  have hopr : s.opr.toNat < 16 := s.opr.isLt
  obtain ⟨hf, rfl⟩ | ⟨h3, h10, ho, rfl⟩ | ⟨h3, h10, ho, rfl⟩ := nextRow_some_cases e
  · omega
  · have hpos := opcode_ne_zero_iff.1 ho
    omega
  · simp only [ho, true_and]
    omega

theorem nextRow_fetchStep (s : State) (o : Opcode) {i : Nat} (h : i < 3) :
    ({ s with step := BitVec.ofNat 4 i, opr := o } : State).nextRow = some i := by
  have hi : (BitVec.ofNat 4 i).toNat = i := by simp; omega
  rw [nextRow_of_fetch] <;> simp only [hi]
  exact h

/-- Every row but 3 is looked up at some step with some opcode: a fetch row at its own step, a row of the
halt window at its first slot, and any other at its slot of its opcode's window. -/
theorem exists_step_opr_nextRow (s : State) {i : Nat} (h : i < 128) (h3 : i ≠ 3) :
    ∃ (c : StepCount) (o : Opcode), ({ s with step := c, opr := o } : State).nextRow = some i := by
  by_cases hfetch : i < 3
  · exact ⟨_, 0, nextRow_fetchStep s 0 hfetch⟩
  by_cases hhalt : i < 8
  · have hc : (BitVec.ofNat 4 (i - 1)).toNat = i - 1 := by simp; omega
    refine ⟨BitVec.ofNat 4 (i - 1), 0, ?_⟩
    rw [nextRow_of_haltWindow] <;> simp only [hc, Option.some.injEq] <;> omega
  · have hc : (BitVec.ofNat 4 (i % 8 + 3)).toNat = i % 8 + 3 := by simp; omega
    have ho : (BitVec.ofNat 4 (i / 8)).toNat = i / 8 := by simp; omega
    refine ⟨BitVec.ofNat 4 (i % 8 + 3), BitVec.ofNat 4 (i / 8), ?_⟩
    rw [nextRow_of_execute] <;>
      simp only [hc, ho, opcode_ne_zero_iff, Option.some.injEq] <;> omega

/-- Settles O7: the looked-up rows read backwards, and a step and opcode for each row. -/
theorem everyRowButThreeIsReachable : Obligations.EveryRowButThreeIsReachable :=
  ⟨fun _ _ e => step_opr_of_nextRow e, fun s _ h h3 => exists_step_opr_nextRow s h h3,
    fun s o _ h => nextRow_fetchStep s o h⟩

/-! ### Words that assert no line with an effect (42_alu_ops.md R162, 30_encoding.md R83) -/

/-- The word asserts no line but `A_OUT`. -/
def Inert (w : ControlWord) : Prop := w &&& ~~~lineAOut = 0

/-- An inert word meets no mask without `A_OUT`. -/
theorem Inert.not_intersects {w m : ControlWord} (h : Inert w) (hm : m &&& ~~~lineAOut = m) :
    intersects w m = false := by
  have : w &&& m = 0 := by
    rw [← hm, BitVec.and_comm m, ← BitVec.and_assoc, show w &&& ~~~lineAOut = 0 from h]
    exact BitVec.zero_and
  simp [intersects, this]

/-- A word with a line other than `A_OUT` is not inert. -/
theorem Inert.ne {w m : ControlWord} (h : Inert w) (hm : m &&& ~~~lineAOut ≠ 0) : w ≠ m := by
  rintro rfl
  exact hm h

theorem Inert.drivers_eq_nil {w : ControlWord} (h : Inert w) : drivers referenceLayout w = [] := by
  have hm : ∀ d ∈ busSources, outputMask referenceLayout d &&& ~~~lineAOut = outputMask referenceLayout d := by
    decide
  exact List.filter_eq_nil_iff.2 fun d hd => by simp [h.not_intersects (hm d hd)]

theorem Inert.requestedOps_eq_nil {w : ControlWord} (h : Inert w) : requestedOps referenceLayout w = [] := by
  have hm : ∀ op ∈ aluOps, aluMask referenceLayout op &&& ~~~lineAOut = aluMask referenceLayout op := by
    decide
  exact List.filter_eq_nil_iff.2 fun op hop => by simp [h.not_intersects (hm op hop)]

theorem Inert.conditionalIncrements_eq {w : ControlWord} (h : Inert w) (f z : Bool) :
    conditionalIncrements referenceLayout f z w = w := by
  simp (disch := decide) [conditionalIncrements, referenceLayout, h.not_intersects]

/-- An inert word increments STEP and no other register. -/
theorem Inert.incrementLoop_eq {s : State} (h : Inert s.cw) (hl : s.cfg.layout = referenceLayout) :
    registerOrder.foldl State.incrementIfEnabled s = { s with step := s.step + 1 } := by
  rw [Machine.incrementLoop_eq, hl]
  simp (disch := decide) [referenceLayout, incrementEnabled, h.not_intersects, registerIncrement]

/-- An inert word latches nothing and stores nothing. -/
theorem Inert.lowLevel_eq {s : State} (h : Inert s.cw) (hl : s.cfg.layout = referenceLayout) :
    s.lowLevel = s := by
  rw [State.lowLevel, latchLoop_eq, storeIfEnabled_eq]
  simp (disch := decide) [hl, referenceLayout, h.not_intersects]

/-- An inert word is none of the router's two combinations. -/
theorem Inert.route_eq {s : State} (h : Inert s.cw) (hl : s.cfg.layout = referenceLayout) : s.route = s :=
  route_of_other (hl ▸ h.ne (by decide)) (hl ▸ h.ne (by decide))

/-- The high level of a word that enables no driver. -/
theorem highLevel_of_undriven {s : State} (h : drivers s.cfg.layout s.cw = []) :
    s.highLevel =
      .ok { s with bus := Config.busDraw s.draws, draws := s.draws + 1, sum := s.precomputedSum } := by
  simp only [State.highLevel, h]

/-- The ALU does nothing that is not requested. -/
theorem aluOperation_of_unrequested {s : State} (h : requestedOps s.cfg.layout s.cw = []) :
    s.aluOperation = .ok s := by
  simp only [State.aluOperation, h]

theorem fallingEdge_of_aluOperation {s u : State}
    (h : (registerOrder.foldl State.incrementIfEnabled s).deriveZ.aluOperation = .ok u) :
    s.fallingEdge = .ok u.route := by
  simp only [State.fallingEdge, h]

theorem laterPhases_of_phases {s h f : State} (hh : s.highLevel = .ok h) (hf : h.fallingEdge = .ok f) :
    s.laterPhases = .next f.lowLevel := by
  simp only [State.laterPhases, hh, hf]

/-- The falling edge of an inert word counts STEP and derives Z. -/
theorem Inert.fallingEdge_eq {s : State} (h : Inert s.cw) (hl : s.cfg.layout = referenceLayout) :
    s.fallingEdge = .ok (State.deriveZ { s with step := s.step + 1 }) := by
  have hops : requestedOps s.cfg.layout s.cw = [] := by rw [hl, h.requestedOps_eq_nil]
  have halu : (registerOrder.foldl State.incrementIfEnabled s).deriveZ.aluOperation =
      .ok (State.deriveZ { s with step := s.step + 1 }) := by
    rw [h.incrementLoop_eq hl]
    exact aluOperation_of_unrequested hops
  rw [fallingEdge_of_aluOperation halu]
  exact congrArg _ (Inert.route_eq h hl)

/-- The later phases of an inert word: a free bus value, the sum, STEP and Z. -/
theorem Inert.laterPhases_eq {s : State} (h : Inert s.cw) (hl : s.cfg.layout = referenceLayout) :
    s.laterPhases = .next (idlePulse s s.cw) := by
  have hhigh := highLevel_of_undriven (s := s) (by rw [hl, h.drivers_eq_nil])
  rw [laterPhases_of_phases hhigh (Inert.fallingEdge_eq h hl)]
  exact congrArg _ (Inert.lowLevel_eq h hl)

/-- The pulse of an inert word does what every completed pulse does and nothing else. -/
theorem Inert.runWord_eq {s : State} {w : ControlWord} (h : Inert w)
    (hl : s.cfg.layout = referenceLayout) (hs : s.halted = false) : runWord w s = .next (idlePulse s w) := by
  have hclr : intersects w s.cfg.layout.clr = false := hl ▸ h.not_intersects (by decide)
  have hhlt : intersects w s.cfg.layout.hlt = false := hl ▸ h.not_intersects (by decide)
  rw [runWord_completing hs (by rw [hl, h.conditionalIncrements_eq]) hclr hhlt]
  exact Inert.laterPhases_eq h hl

/-- Settles O36: both words are inert. -/
theorem inertLineAndZeroWordOnlyCount : Obligations.InertLineAndZeroWordOnlyCount := by
  have haOut : Inert lineAOut := by unfold Inert; decide
  have hnop : Inert wordNop := by unfold Inert; decide
  exact fun _ hl hs => ⟨haOut.runWord_eq hl hs, hnop.runWord_eq hl hs⟩

end Sys2Proof.Machine

namespace Sys2Proof.Machine

/-! ### One step, from the checks of the configuration to the row (40_clock_phases.md R124, R125) -/

theorem step_of_refusal {s : State} {r : Refusal} (h : configRefusal s.cfg = some r) :
    step s = .refused r := by
  simp only [step, h]

/-- R125: the step of a halted machine is the identity. -/
theorem step_of_halted {s : State} (h : configRefusal s.cfg = none) (hs : s.halted = true) :
    step s = .next s := by
  simp only [step, h, hs, if_true]

theorem step_of_running {s : State} (h : configRefusal s.cfg = none) (hs : s.halted = false) :
    step s = exec s.selectIndex s := by
  simp only [step, h, hs, Bool.false_eq_true, if_false]

/-- The selected index class is the pulse of the row it looks up. -/
theorem exec_selectIndex_of_row {s : State} {i : Nat} (h : s.nextRow = some i) :
    exec s.selectIndex s = runRow i s := by
  unfold State.nextRow State.selectIndex at h
  unfold State.selectIndex
  split_ifs at h ⊢ <;> cases h <;> rfl

/-- An index class that looks up no row is the overrun. -/
theorem exec_selectIndex_of_no_row {s : State} (h : s.nextRow = none) :
    exec s.selectIndex s = .fault .windowOverrun := by
  unfold State.nextRow State.selectIndex at h
  unfold State.selectIndex
  split_ifs at h ⊢
  rfl

/-- A step's successor is a halted machine itself or the successor of the looked-up row's pulse. -/
theorem step_next_cases {s t : State} (e : step s = .next t) :
    (s.halted = true ∧ t = s) ∨
      ∃ i w, s.nextRow = some i ∧ rowAt s.cfg i = some w ∧ runWord w s = .next t := by
  cases hc : configRefusal s.cfg with
  | some r => rw [step_of_refusal hc] at e; cases e
  | none =>
    cases hs : s.halted with
    | true => rw [step_of_halted hc hs] at e; cases e; exact .inl ⟨rfl, rfl⟩
    | false =>
      rw [step_of_running hc hs] at e
      cases hi : s.nextRow with
      | none => rw [exec_selectIndex_of_no_row hi] at e; cases e
      | some i =>
        rw [exec_selectIndex_of_row hi] at e
        cases hw : rowAt s.cfg i with
        | none => simp [runRow, hs, hw] at e
        | some w => rw [runRow_of_row hw] at e; exact .inr ⟨i, w, rfl, hw, e⟩

theorem highLevel_keeps {s h : State} (e : s.highLevel = .ok h) : h.cfg = s.cfg ∧ h.cw = s.cw := by
  obtain ⟨-, rfl⟩ | ⟨d, -, rfl⟩ := highLevel_ok_cases e <;> exact ⟨rfl, rfl⟩

theorem runWord_keeps_cfg {w : ControlWord} {s t : State} (e : runWord w s = .next t) : t.cfg = s.cfg := by
  obtain ⟨-, rfl⟩ | ⟨-, r, hr, ⟨-, rfl⟩ | ⟨-, h, f, hh, hf, rfl⟩⟩ := runWord_next_cases e
  · rfl
  · rw [risingEdge_keeps hr]
  · rw [(lowLevel_keeps f).1, (fallingEdge_keeps hf).1, (highLevel_keeps hh).1, risingEdge_keeps hr]

theorem step_keeps_cfg {s t : State} (e : step s = .next t) : t.cfg = s.cfg := by
  obtain ⟨-, rfl⟩ | ⟨i, w, -, -, hw⟩ := step_next_cases e
  · rfl
  · exact runWord_keeps_cfg hw

/-! ### Runs -/

/-- A state that steps to itself runs to itself. -/
theorem run_of_step_self {s : State} (h : step s = .next s) (n : Nat) :
    Host.Core.run Sys2Proof.core n s = .next s := by
  induction n with
  | zero => rfl
  | succ n ih => simp only [Host.Core.run, Sys2Proof.core, h]; exact ih

/-- Settles O12: the step of a halted machine is the identity. -/
theorem haltIsAbsorbing : Obligations.HaltIsAbsorbing :=
  fun _ n hcfg hhalted => run_of_step_self (step_of_halted hcfg hhalted) n

/-- Outcomes that agree are of one kind, with the same reason or related next states. -/
theorem OutcomesAgree.cases {R : State → State → Prop} {o p : Host.Outcome State Fault Refusal}
    (h : OutcomesAgree R o p) :
    (∃ s t, o = .next s ∧ p = .next t ∧ R s t) ∨ (∃ f, o = .fault f ∧ p = .fault f) ∨
      (∃ r, o = .refused r ∧ p = .refused r) := by
  unfold OutcomesAgree at h
  split at h
  · exact .inl ⟨_, _, rfl, rfl, h⟩
  · exact .inr (.inl ⟨_, rfl, h ▸ rfl⟩)
  · exact .inr (.inr ⟨_, rfl, h ▸ rfl⟩)
  · exact h.elim

/-- Agreement weakens to any relation that the related next states satisfy. -/
theorem OutcomesAgree.mono {R R' : State → State → Prop} {o p : Host.Outcome State Fault Refusal}
    (h : OutcomesAgree R o p) (hR : ∀ s t, o = .next s → R s t → R' s t) : OutcomesAgree R' o p := by
  obtain ⟨s, t, rfl, rfl, hst⟩ | ⟨f, rfl, rfl⟩ | ⟨r, rfl, rfl⟩ := h.cases
  · exact hR s t rfl hst
  · rfl
  · rfl

/-- A relation that every step keeps is kept by every run. -/
theorem run_outcomesAgree {R : State → State → Prop}
    (hstep : ∀ s t, R s t → OutcomesAgree R (step s) (step t)) (n : Nat) {s t : State} (h : R s t) :
    OutcomesAgree R (Host.Core.run Sys2Proof.core n s) (Host.Core.run Sys2Proof.core n t) := by
  induction n generalizing s t with
  | zero => exact h
  | succ n ih =>
    simp only [Host.Core.run, Sys2Proof.core]
    obtain ⟨s', t', hs, ht, h'⟩ | ⟨f, hs, ht⟩ | ⟨r, hs, ht⟩ := (hstep s t h).cases <;> rw [hs, ht]
    · exact ih h'
    · rfl
    · rfl

/-! ### The published word is an effective word (00_scope.md R9) -/

/-- A row whose word, after the conditional increments, asserts no clear-step adds that word to `EFF`. -/
theorem conditionalIncrements_mem_effectiveOfRow {l : Layout} {f z : Bool} {w : ControlWord}
    (h : intersects (conditionalIncrements l f z w) l.clr = false) :
    conditionalIncrements l f z w ∈ effectiveOfRow l w := by
  unfold effectiveOfRow
  obtain e | ⟨e, hcond⟩ := conditionalIncrements_cases l f z w
  · rw [e] at h ⊢
    rw [h, if_neg Bool.false_ne_true]
    split_ifs <;> exact List.mem_cons_self
  · rw [e, intersects_or, Bool.or_eq_false_iff] at h
    rw [e, h.1, if_neg Bool.false_ne_true, if_pos (Bool.or_eq_true _ _ ▸ hcond)]
    simp

theorem effectiveOfRow_subset_effectiveWords {c : Config} {i : Nat} {w : ControlWord}
    (h : rowAt c i = some w) : effectiveOfRow c.layout w ⊆ effectiveWords c := by
  unfold rowAt at h
  split at h
  · next v hv =>
    split at h <;> cases h
    exact fun x hx => List.mem_append_right _ (List.mem_flatMap.2 ⟨v, List.mem_of_getElem? hv, hx⟩)
  · cases h

/-- What the rising edge publishes on a row of the table is one of the effective words. -/
theorem risingEdge_cw_mem_effectiveWords {s r : State} {i : Nat} {w : ControlWord}
    (hw : rowAt s.cfg i = some w) (hr : s.risingEdge w = some r) : r.cw ∈ effectiveWords s.cfg := by
  obtain ⟨hclr, rfl⟩ | ⟨-, w0, h0, rfl⟩ := risingEdge_cases hr
  · exact effectiveOfRow_subset_effectiveWords hw (conditionalIncrements_mem_effectiveOfRow hclr)
  · exact List.mem_append_left _ (by simp [h0])

/-! ### The phases, case by case -/

/-- A clear-step word is replaced by row 0 (45_sequencer.md R200). -/
theorem risingEdge_of_clear {s : State} {w : ControlWord}
    (h : intersects (conditionalIncrements s.cfg.layout (flagF s.flg) (flagZ s.flg) w)
      s.cfg.layout.clr = true) :
    s.risingEdge w = (rowAt s.cfg 0).map (State.publish { s with step := 0 }) := by
  simp only [State.risingEdge, if_pos h]
  cases rowAt s.cfg 0 <;> rfl

theorem risingEdge_of_no_clear {s : State} {w : ControlWord}
    (h : intersects (conditionalIncrements s.cfg.layout (flagF s.flg) (flagZ s.flg) w)
      s.cfg.layout.clr = false) :
    s.risingEdge w = some (s.publish (conditionalIncrements s.cfg.layout (flagF s.flg) (flagZ s.flg) w)) := by
  simp only [State.risingEdge, h, Bool.false_eq_true, if_false]

theorem highLevel_of_driver {s : State} {d : BusSource} (h : drivers s.cfg.layout s.cw = [d]) :
    s.highLevel = .ok { s with bus := s.driven d, sum := s.precomputedSum } := by
  simp only [State.highLevel, h]

theorem highLevel_of_two_drivers {s : State} (h : 2 ≤ (drivers s.cfg.layout s.cw).length) :
    s.highLevel = .error .wfOneDriver := by
  unfold State.highLevel
  split
  · next hd => simp [hd] at h
  · next hd => simp [hd] at h
  · rfl

/-- A word that latches nothing leaves the low level nothing to do. -/
theorem lowLevel_of_unlatched {s : State} (h : latchesBus s.cfg.layout s.cw = false) : s.lowLevel = s := by
  simp only [latchesBus, registerOrder, masksOf, List.any_cons, List.any_nil, Bool.or_false,
    Bool.or_eq_false_iff] at h
  rw [State.lowLevel, latchLoop_eq, storeIfEnabled_eq]
  simp [h]

/-! ### What BUS, SUM and the count of draws do to each phase (40_clock_phases.md R123) -/

/-- The state with other values in the fields that `SameButBus` leaves open. -/
def State.withHidden (s : State) (b m : Word) (d : Nat) : State := { s with bus := b, sum := m, draws := d }

theorem sameButBus_iff {s t : State} : SameButBus s t ↔ ∃ b m d, t = s.withHidden b m d :=
  ⟨fun h => ⟨_, _, _, h⟩, by rintro ⟨b, m, d, rfl⟩; rfl⟩

theorem sameButBus_withHidden (s : State) (b m : Word) (d : Nat) : SameButBus s (s.withHidden b m d) := rfl

section Hidden

variable (s : State) (b m : Word) (d : Nat)

@[simp] theorem withHidden_cfg : (s.withHidden b m d).cfg = s.cfg := rfl
@[simp] theorem withHidden_cw : (s.withHidden b m d).cw = s.cw := rfl
@[simp] theorem withHidden_halted : (s.withHidden b m d).halted = s.halted := rfl

/-- The rising edge neither reads nor writes the hidden fields. -/
theorem risingEdge_withHidden (w : ControlWord) :
    (s.withHidden b m d).risingEdge w = (s.risingEdge w).map (·.withHidden b m d) := by
  cases hclr : intersects (conditionalIncrements s.cfg.layout (flagF s.flg) (flagZ s.flg) w)
      s.cfg.layout.clr with
  | true =>
    rw [risingEdge_of_clear hclr, risingEdge_of_clear (s := s.withHidden b m d) hclr, Option.map_map]
    rfl
  | false =>
    rw [risingEdge_of_no_clear hclr, risingEdge_of_no_clear (s := s.withHidden b m d) hclr]
    rfl

/-- No bus source reads the hidden fields. -/
theorem driven_withHidden (src : BusSource) : (s.withHidden b m d).driven src = s.driven src := by
  rcases src with r | _
  · cases r <;> rfl
  · rfl

/-- The high level computes SUM anew, and BUS too where something drives it. -/
theorem highLevel_withHidden_of_ok {u : State} (e : s.highLevel = .ok u) :
    ∃ b' d', (s.withHidden b m d).highLevel = .ok (u.withHidden b' u.sum d') ∧
      (drivers s.cfg.layout s.cw ≠ [] → b' = u.bus) := by
  obtain ⟨hd, rfl⟩ | ⟨src, hd, rfl⟩ := highLevel_ok_cases e
  · exact ⟨_, _, highLevel_of_undriven (s := s.withHidden b m d) hd, fun h => absurd hd h⟩
  · exact ⟨_, _, highLevel_of_driver (s := s.withHidden b m d) hd, fun _ => driven_withHidden s b m d src⟩

theorem highLevel_withHidden_of_error {r : Refusal} (e : s.highLevel = .error r) :
    (s.withHidden b m d).highLevel = .error r := by
  obtain ⟨rfl, hd⟩ := highLevel_error e
  exact highLevel_of_two_drivers (s := s.withHidden b m d) hd

theorem incrementLoop_withHidden :
    registerOrder.foldl State.incrementIfEnabled (s.withHidden b m d) =
      (registerOrder.foldl State.incrementIfEnabled s).withHidden b m d := by
  rw [incrementLoop_eq, incrementLoop_eq]
  rfl

theorem deriveZ_withHidden : (s.withHidden b m d).deriveZ = s.deriveZ.withHidden b m d := rfl

theorem applyAlu_withHidden (op : AluOp) :
    (s.withHidden b s.sum d).applyAlu op = (s.applyAlu op).withHidden b s.sum d := by
  cases op <;> rfl

theorem route_withHidden : (s.withHidden b m d).route = s.route.withHidden b m d := by
  by_cases hswap : s.cw = s.cfg.layout.swap
  · rw [route_of_swap hswap, route_of_swap (s := s.withHidden b m d) hswap]
    rfl
  by_cases hextract : s.cw = s.cfg.layout.extract
  · rw [route_of_extract hswap hextract, route_of_extract (s := s.withHidden b m d) hswap hextract]
    rfl
  · rw [route_of_other hswap hextract, route_of_other (s := s.withHidden b m d) hswap hextract]

theorem aluOperation_withHidden :
    (s.withHidden b s.sum d).aluOperation = s.aluOperation.map (·.withHidden b s.sum d) := by
  unfold State.aluOperation
  rw [withHidden_cfg, withHidden_cw]
  split
  · rfl
  · exact congrArg Except.ok (applyAlu_withHidden s b d _)
  · rfl

/-- The falling edge reads SUM, but neither BUS nor the count. -/
theorem fallingEdge_withHidden :
    (s.withHidden b s.sum d).fallingEdge = s.fallingEdge.map (·.withHidden b s.sum d) := by
  have halu := aluOperation_withHidden (registerOrder.foldl State.incrementIfEnabled s).deriveZ b d
  rw [deriveZ_sum, incrementLoop_keeps_sum] at halu
  rw [State.fallingEdge, State.fallingEdge, incrementLoop_withHidden, deriveZ_withHidden, halu]
  cases (registerOrder.foldl State.incrementIfEnabled s).deriveZ.aluOperation with
  | error r => rfl
  | ok u => exact congrArg Except.ok (route_withHidden u b s.sum d)

/-- The low level reads BUS only where the word latches it. -/
theorem lowLevel_withHidden (h : latchesBus s.cfg.layout s.cw = true → b = s.bus) :
    (s.withHidden b m d).lowLevel = s.lowLevel.withHidden b m d := by
  cases hl : latchesBus s.cfg.layout s.cw with
  | false => rw [lowLevel_of_unlatched hl, lowLevel_of_unlatched (s := s.withHidden b m d) hl]
  | true =>
    rw [h hl, State.lowLevel, State.lowLevel, latchLoop_eq, latchLoop_eq, storeIfEnabled_eq, storeIfEnabled_eq]
    rfl

/-- Where the word drives what it latches, the three later phases carry the agreement through. -/
theorem laterPhases_agrees_withHidden
    (hdrive : latchesBus s.cfg.layout s.cw = true → drivers s.cfg.layout s.cw ≠ []) :
    OutcomesAgree SameButBus s.laterPhases (s.withHidden b m d).laterPhases := by
  unfold State.laterPhases
  cases eh : s.highLevel with
  | error r =>
    rw [highLevel_withHidden_of_error s b m d eh]
    rfl
  | ok h =>
    obtain ⟨b', d', eh', hbus⟩ := highLevel_withHidden_of_ok s b m d eh
    rw [eh']
    dsimp only
    rw [fallingEdge_withHidden]
    cases ef : h.fallingEdge with
    | error r => rfl
    | ok f =>
      obtain ⟨hcfg, hcw, -, -, hfbus, -⟩ := fallingEdge_keeps ef
      obtain ⟨hcfg', hcw'⟩ := highLevel_keeps eh
      have hlatch : latchesBus f.cfg.layout f.cw = true → b' = f.bus := by
        rw [hcfg, hcw, hcfg', hcw', hfbus]
        exact fun hl => hbus (hdrive hl)
      show SameButBus f.lowLevel (f.withHidden b' h.sum d').lowLevel
      rw [lowLevel_withHidden f b' h.sum d' hlatch]
      exact sameButBus_withHidden _ _ _ _

/-- A pulse of a table that drives what it latches publishes an effective word, so its later phases agree. -/
theorem runWord_agrees_withHidden (hdrive : DrivesWhatItLatches s.cfg) {i : Nat} {w : ControlWord}
    (hw : rowAt s.cfg i = some w) :
    OutcomesAgree SameButBus (runWord w s) (runWord w (s.withHidden b m d)) := by
  unfold runWord
  rw [risingEdge_withHidden, withHidden_halted]
  split_ifs
  · exact sameButBus_withHidden s b m d
  · cases hr : s.risingEdge w with
    | none => rfl
    | some r =>
      have hcfg : r.cfg = s.cfg := by rw [risingEdge_keeps hr]
      have heff := hdrive r.cw (risingEdge_cw_mem_effectiveWords hw hr)
      rw [← hcfg] at heff
      rw [Option.map_some]
      dsimp only
      rw [withHidden_halted]
      split_ifs
      · exact sameButBus_withHidden r b m d
      · exact laterPhases_agrees_withHidden r b m d heff

theorem runRow_agrees_withHidden (hdrive : DrivesWhatItLatches s.cfg) (i : Nat) :
    OutcomesAgree SameButBus (runRow i s) (runRow i (s.withHidden b m d)) := by
  cases hw : rowAt s.cfg i with
  | some w =>
    rw [runRow_of_row hw, runRow_of_row (s := s.withHidden b m d) hw]
    exact runWord_agrees_withHidden s b m d hdrive hw
  | none =>
    simp only [runRow, State.withHidden, hw]
    split_ifs
    · exact sameButBus_withHidden s b m d
    · rfl

/-- The checks of a step and its choice of a row see nothing of the hidden fields. -/
theorem step_agrees_withHidden (hdrive : DrivesWhatItLatches s.cfg) :
    OutcomesAgree SameButBus (step s) (step (s.withHidden b m d)) := by
  cases hc : configRefusal s.cfg with
  | some r =>
    rw [step_of_refusal hc, step_of_refusal (s := s.withHidden b m d) hc]
    rfl
  | none =>
    cases hs : s.halted with
    | true =>
      rw [step_of_halted hc hs, step_of_halted (s := s.withHidden b m d) hc hs]
      exact sameButBus_withHidden s b m d
    | false =>
      rw [step_of_running hc hs, step_of_running (s := s.withHidden b m d) hc hs]
      cases hi : s.nextRow with
      | none =>
        rw [exec_selectIndex_of_no_row hi, exec_selectIndex_of_no_row (s := s.withHidden b m d) hi]
        rfl
      | some i =>
        rw [exec_selectIndex_of_row hi, exec_selectIndex_of_row (s := s.withHidden b m d) hi]
        exact runRow_agrees_withHidden s b m d hdrive i

end Hidden

/-- Agreement but for the bus, on a table that drives what it latches. -/
def AgreeAndDrive (s t : State) : Prop := DrivesWhatItLatches s.cfg ∧ SameButBus s t

theorem step_keeps_agreeAndDrive (s t : State) (h : AgreeAndDrive s t) :
    OutcomesAgree AgreeAndDrive (step s) (step t) := by
  obtain ⟨hdrive, hsame⟩ := h
  obtain ⟨b, m, d, rfl⟩ := sameButBus_iff.1 hsame
  exact (step_agrees_withHidden s b m d hdrive).mono fun s' t' e h' => ⟨step_keeps_cfg e ▸ hdrive, h'⟩

/-- Settles O58: every step keeps the agreement, so every run does. -/
theorem theBusDrawIsNeverObserved : Obligations.TheBusDrawIsNeverObserved :=
  fun n _ _ hdrive hsame =>
    (run_outcomesAgree step_keeps_agreeAndDrive n ⟨hdrive, hsame⟩).mono fun _ _ _ h => h.2

end Sys2Proof.Machine

namespace Sys2Proof.Machine

/-! ### The generic register (41_register_ops.md R134) -/

theorem toNat_registerWrite (n v : Nat) : (registerWrite n v).toNat = v % 2 ^ n := BitVec.toNat_ofNat v n

theorem toNat_registerIncrement {n : Nat} (x : BitVec n) : (registerIncrement x).toNat = (x.toNat + 1) % 2 ^ n := by
  simp [registerIncrement, BitVec.toNat_add]

theorem registerIncrement_allOnes (n : Nat) : registerIncrement (BitVec.allOnes n) = 0 := by
  have hpos : 0 < 2 ^ n := Nat.two_pow_pos n
  refine BitVec.eq_of_toNat_eq ?_
  rw [toNat_registerIncrement, BitVec.toNat_allOnes, Nat.sub_add_cancel hpos, Nat.mod_self]
  rfl

/-- Settles O23: one lemma for each clause. -/
theorem genericRegisterMasksAndWraps : Obligations.GenericRegisterMasksAndWraps :=
  fun n v => ⟨toNat_registerWrite n v, toNat_registerIncrement, registerIncrement_allOnes n, rfl⟩

/-! ### The mask test as statements write it -/

theorem intersects_eq_true_iff {a b : ControlWord} : intersects a b = true ↔ a &&& b ≠ 0 := bne_iff_ne

theorem intersects_eq_false_iff {a b : ControlWord} : intersects a b = false ↔ a &&& b = 0 := by
  rw [intersects, bne_eq_false_iff_eq]

theorem intersects_comm (a b : ControlWord) : intersects a b = intersects b a := by
  rw [intersects, BitVec.and_comm, intersects]

theorem intersects_or_right (a b c : ControlWord) :
    intersects a (b ||| c) = (intersects a b || intersects a c) := by
  rw [intersects_comm, intersects_or, intersects_comm b, intersects_comm c]

@[simp] theorem intersects_zero (a : ControlWord) : intersects a 0#24 = false :=
  intersects_eq_false_iff.2 BitVec.and_zero

/-- The conditional increments do not matter to a mask without `L_IPC`. -/
theorem intersects_workingWord_of_disjoint {s : State} {m : ControlWord}
    (h : intersects s.cfg.layout.ipc m = false) (w : ControlWord) :
    intersects (s.workingWord w) m = intersects w m := by
  rw [workingWord_eq]
  obtain e | ⟨e, -⟩ := conditionalIncrements_cases s.cfg.layout (flagF s.flg) (flagZ s.flg) w <;> rw [e]
  rw [intersects_or, h, Bool.or_false]

/-! ### The pulse behind a step (40_clock_phases.md R124) -/

/-- A running machine's step is the pulse of the word it looks up. -/
theorem runWord_of_step {s t : State} {n : Nat} {w : ControlWord} (hs : s.halted = false)
    (hn : s.nextRow = some n) (hw : rowAt s.cfg n = some w) (e : step s = .next t) :
    runWord w s = .next t := by
  obtain ⟨hx, -⟩ | ⟨n', w', hn', hw', hrun⟩ := step_next_cases e
  · rw [hs] at hx; cases hx
  · rw [hn] at hn'; cases hn'
    rw [hw] at hw'; cases hw'
    exact hrun

/-- A pulse that completes without halting ends in its low level. -/
theorem exists_lowLevel_of_step {s t : State} (hs : s.halted = false) (e : step s = .next t)
    (ht : t.halted = false) : ∃ f : State, t = f.lowLevel := by
  obtain ⟨hx, -⟩ | ⟨_, w, -, -, hrun⟩ := step_next_cases e
  · rw [hs] at hx; cases hx
  obtain ⟨hx, -⟩ | ⟨-, r, -, ⟨hx, rfl⟩ | ⟨-, _, f, -, -, rfl⟩⟩ := runWord_next_cases hrun
  · rw [hs] at hx; cases hx
  · rw [ht] at hx; cases hx
  · exact ⟨f, rfl⟩

/-! ### The low level, register by register (41_register_ops.md R131) -/

theorem toNat_readReg_writeReg (s : State) (r : RegName) (v : Word) :
    ((s.writeReg r v).readReg r).toNat = v.toNat % 2 ^ registerWidth r := by
  have hv : v.toNat < 4096 := v.isLt
  cases r <;> simp [State.readReg, registerWidth] <;> omega

/-- The low level writes the bus to a register whose input line is asserted; the latches of the other
registers and the store leave it alone. -/
theorem readReg_lowLevel_of_latched {s : State} {r : RegName}
    (h : intersects s.cw (masksOf s.cfg.layout r).input = true) :
    s.lowLevel.readReg r = (s.writeReg r s.bus).readReg r := by
  rw [State.lowLevel, storeIfEnabled_eq, latchLoop_eq]
  cases r <;> simp only [masksOf] at h <;> simp [State.readReg, h]

/-- Settles O24: the low level has the last word, and it latches the bus. -/
theorem latchedRegistersHoldTheBus : Obligations.LatchedRegistersHoldTheBus := by
  rintro s t r ⟨-, hs⟩ e ht hin
  rw [← step_keeps_cfg e, ← intersects_eq_true_iff] at hin
  obtain ⟨f, rfl⟩ := exists_lowLevel_of_step hs e ht
  obtain ⟨hcfg, hcw, -, hbus, -⟩ := lowLevel_keeps f
  rw [hcfg, hcw] at hin
  rw [readReg_lowLevel_of_latched hin, toNat_readReg_writeReg, hbus]

/-! ### Which acts of a pulse can write a register after its increment (40_clock_phases.md R120, R121) -/

theorem aluOperation_keeps {s t : State} (e : s.aluOperation = .ok t) :
    t = { s with gpr := t.gpr, acc := t.acc, flg := t.flg } := by
  obtain rfl | ⟨op, -, rfl⟩ := aluOperation_cases e
  · rfl
  · exact applyAlu_keeps s op

theorem applyAlu_keeps_gpr (s : State) {op : AluOp} (h : op ≠ .a2g) : (s.applyAlu op).gpr = s.gpr := by
  cases op
  case a2g => exact absurd rfl h
  all_goals rfl

/-- The operations that write ACC (42_alu_ops.md R155, R156, R158, R160, R161). -/
def accOps : List AluOp := [.add, .cma, .cla, .rol, .ror]

theorem applyAlu_keeps_acc (s : State) {op : AluOp} (h : op ∉ accOps) : (s.applyAlu op).acc = s.acc := by
  cases op
  case a2g | cmf | clf => rfl
  all_goals exact absurd (by decide) h

theorem aluOperation_keeps_gpr {s t : State} (e : s.aluOperation = .ok t)
    (h : intersects s.cw s.cfg.layout.a2g = false) : t.gpr = s.gpr := by
  obtain rfl | ⟨op, hop, rfl⟩ := aluOperation_cases e
  · rfl
  · refine applyAlu_keeps_gpr s ?_
    rintro rfl
    exact Bool.false_ne_true (h.symm.trans hop)

theorem aluOperation_keeps_acc {s t : State} (e : s.aluOperation = .ok t)
    (h : ∀ op ∈ accOps, intersects s.cw (aluMask s.cfg.layout op) = false) : t.acc = s.acc := by
  obtain rfl | ⟨op, hop, rfl⟩ := aluOperation_cases e
  · rfl
  · exact applyAlu_keeps_acc s fun hacc => Bool.false_ne_true ((h op hacc).symm.trans hop)

theorem route_keeps_cw (s : State) : s.route.cw = s.cw := by rw [route_keeps]
theorem route_keeps_cfg (s : State) : s.route.cfg = s.cfg := by rw [route_keeps]

/-- STEP after the rising edge: 0 if the working word asserts clear-step (45_sequencer.md R200). -/
theorem risingEdge_step {s r : State} {w : ControlWord} (e : s.risingEdge w = some r) :
    r.step = if s.workingWord w &&& s.cfg.layout.clr ≠ 0 then 0 else s.step := by
  rw [workingWord_eq]
  obtain ⟨hc, rfl⟩ | ⟨hc, w0, -, rfl⟩ := risingEdge_cases e
  · rw [if_neg (not_not.2 (intersects_eq_false_iff.1 hc)), publish_step]
  · rw [if_pos (intersects_eq_true_iff.1 hc), publish_step]

/-! ### A register that no later act of the pulse writes keeps its increment (41_register_ops.md R132) -/

theorem lowLevel_route_unlatched (u : State) :
    (u.cw &&& u.cfg.layout.pc.input = 0 → u.route.lowLevel.pc = u.route.pc) ∧
    (u.cw &&& u.cfg.layout.gpr.input = 0 → u.route.lowLevel.gpr = u.route.gpr) ∧
    (u.cw &&& u.cfg.layout.acc.input = 0 → u.route.lowLevel.acc = u.route.acc) ∧
    (u.cw &&& u.cfg.layout.mar.input = 0 → u.route.lowLevel.mar = u.route.mar) ∧
    (u.cw &&& u.cfg.layout.flg.input = 0 → u.route.lowLevel.flg = u.route.flg) ∧
    (u.cw &&& u.cfg.layout.opr.input = 0 → u.route.lowLevel.opr = u.route.opr) ∧
    (u.cw &&& u.cfg.layout.step.input = 0 → u.route.lowLevel.step = u.route.step) := by
  simp only [← intersects_eq_false_iff]
  simpa only [route_keeps_cw, route_keeps_cfg] using lowLevel_unlatched u.route

section Unwritten

variable {i u : State} (hu : i.deriveZ.aluOperation = .ok u)

include hu

theorem pc_of_unwritten (hin : u.cw &&& u.cfg.layout.pc.input = 0) (hswap : u.cw ≠ u.cfg.layout.swap) :
    u.route.lowLevel.pc = i.pc := by
  rw [(lowLevel_route_unlatched u).1 hin, (route_pc_gpr hswap).1, aluOperation_keeps hu, deriveZ_pc]

theorem gpr_of_unwritten (hin : u.cw &&& u.cfg.layout.gpr.input = 0) (ha2g : u.cw &&& u.cfg.layout.a2g = 0)
    (hswap : u.cw ≠ u.cfg.layout.swap) : u.route.lowLevel.gpr = i.gpr := by
  obtain ⟨-, latch, -⟩ := lowLevel_route_unlatched u
  have hop : intersects i.deriveZ.cw i.deriveZ.cfg.layout.a2g = false := by
    rw [aluOperation_keeps hu] at ha2g
    exact intersects_eq_false_iff.2 ha2g
  rw [latch hin, (route_pc_gpr hswap).2, aluOperation_keeps_gpr hu hop, deriveZ_gpr]

theorem acc_of_unwritten (hin : u.cw &&& u.cfg.layout.acc.input = 0)
    (hops : ∀ op ∈ accOps, u.cw &&& aluMask u.cfg.layout op = 0) : u.route.lowLevel.acc = i.acc := by
  obtain ⟨-, -, latch, -⟩ := lowLevel_route_unlatched u
  obtain ⟨route, -⟩ := route_others u
  have hops' : ∀ op ∈ accOps, intersects i.deriveZ.cw (aluMask i.deriveZ.cfg.layout op) = false := by
    rw [aluOperation_keeps hu] at hops
    exact fun op hop => intersects_eq_false_iff.2 (hops op hop)
  rw [latch hin, route, aluOperation_keeps_acc hu hops', deriveZ_acc]

theorem mar_of_unwritten (hin : u.cw &&& u.cfg.layout.mar.input = 0) : u.route.lowLevel.mar = i.mar := by
  obtain ⟨-, -, -, latch, -⟩ := lowLevel_route_unlatched u
  obtain ⟨-, route, -⟩ := route_others u
  rw [latch hin, route, aluOperation_keeps hu, deriveZ_mar]

theorem opr_of_unwritten (hin : u.cw &&& u.cfg.layout.opr.input = 0)
    (hextract : u.cw = u.cfg.layout.swap ∨ u.cw ≠ u.cfg.layout.extract) : u.route.lowLevel.opr = i.opr := by
  obtain ⟨-, -, -, -, -, latch, -⟩ := lowLevel_route_unlatched u
  obtain ⟨-, -, -, -, route⟩ := route_others u
  rw [latch hin, route hextract, aluOperation_keeps hu, deriveZ_opr]

theorem step_of_unwritten (hin : u.cw &&& u.cfg.layout.step.input = 0) : u.route.lowLevel.step = i.step := by
  obtain ⟨-, -, -, -, -, -, latch⟩ := lowLevel_route_unlatched u
  obtain ⟨-, -, -, route, -⟩ := route_others u
  rw [latch hin, route, aluOperation_keeps hu, deriveZ_step]

end Unwritten

/-! ### Words of the reference layout that only move and increment -/

/-- The word asserts no line of the control unit, requests no ALU operation and is none of the router's two
combinations: what it can do is transfer, increment and store. -/
abbrev OnlyMovesAndCounts (w : ControlWord) : Prop :=
  intersects w (lineIpcF0 ||| lineIpcZ1 ||| lineClrSc ||| lineHalt) = false ∧
    requestedOps referenceLayout w = [] ∧ w ≠ wordSwap ∧ w ≠ wordExtract

/-- The pulse of such a word: the high level, the increments, Z and the low level. -/
theorem OnlyMovesAndCounts.runWord_eq {w : ControlWord} {s h : State} (hw : OnlyMovesAndCounts w)
    (hl : s.cfg.layout = referenceLayout) (hs : s.halted = false)
    (hh : State.highLevel { s with cw := w } = .ok h) :
    runWord w s = .next (registerOrder.foldl State.incrementIfEnabled h).deriveZ.lowLevel := by
  obtain ⟨hlines, hops, hswap, hextract⟩ := hw
  simp only [intersects_or_right, Bool.or_eq_false_iff] at hlines
  obtain ⟨⟨⟨hipcF0, hipcZ1⟩, hclr⟩, hhlt⟩ := hlines
  have hcond (f z : Bool) : conditionalIncrements s.cfg.layout f z w = w := by
    simp [conditionalIncrements, hl, referenceLayout, hipcF0, hipcZ1]
  obtain ⟨hcfg, hcw⟩ := highLevel_keeps hh
  have hlayout : h.cfg.layout = referenceLayout := by rw [hcfg, hl]
  have halu : (registerOrder.foldl State.incrementIfEnabled h).deriveZ.aluOperation = .ok _ :=
    aluOperation_of_unrequested (by simp [hlayout, hcw, hops])
  have hroute : (registerOrder.foldl State.incrementIfEnabled h).deriveZ.route = _ :=
    route_of_other (by simpa [hlayout, hcw, referenceLayout] using hswap)
      (by simpa [hlayout, hcw, referenceLayout] using hextract)
  rw [runWord_completing hs (hcond _ _) (hl ▸ hclr) (hl ▸ hhlt),
    laterPhases_of_phases hh (fallingEdge_of_aluOperation halu), hroute]

/-- What a source drives does not depend on the published word. -/
theorem driven_withCw (s : State) (w : ControlWord) (d : BusSource) :
    State.driven { s with cw := w } d = s.driven d := by
  cases d with
  | reg r => cases r <;> rfl
  | memory => rfl

/-- A word without increment lines puts its one source on the bus and does what every pulse does; what is
left is its latch or store. -/
theorem OnlyMovesAndCounts.runWord_of_transfer {w : ControlWord} {s : State} {d : BusSource}
    (hw : OnlyMovesAndCounts w) (hl : s.cfg.layout = referenceLayout) (hs : s.halted = false)
    (hinc : intersects w (lineIpc ||| lineIgpr ||| lineIacc) = false)
    (hd : drivers referenceLayout w = [d]) :
    runWord w s = .next (drivenPulse s w (s.driven d)).lowLevel := by
  simp only [intersects_or_right, Bool.or_eq_false_iff] at hinc
  obtain ⟨⟨hipc, higpr⟩, hiacc⟩ := hinc
  have hhigh := highLevel_of_driver (s := { s with cw := w }) (hl ▸ hd)
  rw [hw.runWord_eq hl hs hhigh, driven_withCw, incrementLoop_eq]
  simp [hl, referenceLayout, incrementEnabled, hipc, higpr, hiacc, drivenPulse, State.deriveZ, recomputeZ,
    registerIncrement, State.precomputedSum]

/-- The low level on the reference layout: PC, GPR and MAR have input lines, and the store goes to the MAR
the latches leave (41_register_ops.md R131, 43_memory_ops.md R171). -/
theorem lowLevel_drivenPulse_of_reference {s : State} (hl : s.cfg.layout = referenceLayout) (w : ControlWord)
    (b : Word) :
    (drivenPulse s w b).lowLevel =
      let mar' := if intersects w (lineTPcMar ||| lineTGprMar) then b.setWidth 8 else s.mar
      { drivenPulse s w b with
        pc := if intersects w lineTGprPc then b.setWidth 8 else s.pc
        gpr := if intersects w lineTMGpr then b else s.gpr
        mar := mar'
        mem := if intersects w lineTGprM then s.mem.write mar' b else s.mem } := by
  rw [State.lowLevel, storeIfEnabled_eq, latchLoop_eq]
  simp [drivenPulse, hl, referenceLayout]

/-- The pulse of a word of the increment lines, which drives and latches nothing: the registers count, and Z
follows the incremented GPR (41_register_ops.md R138 to R140). -/
theorem OnlyMovesAndCounts.runWord_of_increment {w : ControlWord} {s : State}
    (hw : OnlyMovesAndCounts w) (hl : s.cfg.layout = referenceLayout) (hs : s.halted = false)
    (hd : drivers referenceLayout w = []) (hlatch : latchesBus referenceLayout w = false) :
    runWord w s = .next { idlePulse s w with
      pc := incremented w (.lines lineIpc) s.pc
      gpr := incremented w (.lines lineIgpr) s.gpr
      acc := incremented w (.lines lineIacc) s.acc
      flg := recomputeZ (incremented w (.lines lineIgpr) s.gpr) s.flg } := by
  have hhigh := highLevel_of_undriven (s := { s with cw := w }) (hl ▸ hd)
  rw [hw.runWord_eq hl hs hhigh, lowLevel_of_unlatched (by simpa [hl] using hlatch), incrementLoop_eq]
  simp only [hl, referenceLayout, incremented_eq]
  simp [incrementEnabled, idlePulse, drivenPulse, State.deriveZ, registerIncrement, State.precomputedSum]

/-- Settles O30: for each line its source, and the latch or store that its word asks of the low level. -/
theorem transferLinesMoveOneWord : Obligations.TransferLinesMoveOneWord := by
  intro s hl hs
  have move {w : ControlWord} {d : BusSource} (hw : OnlyMovesAndCounts w)
      (hinc : intersects w (lineIpc ||| lineIgpr ||| lineIacc) = false) (hd : drivers referenceLayout w = [d]) :=
    (hw.runWord_of_transfer hl hs hinc hd).trans
      (congrArg _ (lowLevel_drivenPulse_of_reference hl w (s.driven d)))
  refine ⟨?_, ?_, ?_, ?_, ?_⟩
  · have h : exec .tPcMar s = .next { drivenPulse s 0x000001 (s.pc.setWidth 12) with
        mar := (s.pc.setWidth 12).setWidth 8 } :=
      move (w := lineTPcMar) (d := .reg .pc) (by decide) (by decide) (by decide)
    rwa [BitVec.setWidth_setWidth_of_le _ (by decide), BitVec.setWidth_eq] at h
  · exact move (w := lineTMGpr) (d := .memory) (by decide) (by decide) (by decide)
  · exact move (w := lineTGprMar) (d := .reg .gpr) (by decide) (by decide) (by decide)
  · exact move (w := lineTGprM) (d := .reg .gpr) (by decide) (by decide) (by decide)
  · exact move (w := lineTGprPc) (d := .reg .gpr) (by decide) (by decide) (by decide)

/-- Settles O32. On the reference layout the three lines are words that only increment; for every
configuration, a register that nothing else writes keeps its increment. -/
theorem incrementLinesAddOne : Obligations.IncrementLinesAddOne := by
  refine ⟨fun s hl hs => ?_, ?_⟩
  · exact ⟨OnlyMovesAndCounts.runWord_of_increment (w := lineIpc) (by decide) hl hs (by decide) (by decide),
      OnlyMovesAndCounts.runWord_of_increment (w := lineIgpr) (by decide) hl hs (by decide) (by decide),
      OnlyMovesAndCounts.runWord_of_increment (w := lineIacc) (by decide) hl hs (by decide) (by decide)⟩
  · rintro s t n w ⟨-, hs⟩ hn hw e ht
    obtain ⟨r, i, u, hr, htr, -, -, -, -, -, hpc, hgpr, hacc, hmar, -, hopr, hstep, hu, hur, hcfg, rfl⟩ :=
      completed_pulse hs (runWord_of_step hs hn hw e) ht
    rw [risingEdge_step hr] at hstep
    rw [← hur] at htr hpc hgpr hacc hmar hopr hstep
    dsimp only
    rw [htr, ← hpc, ← hgpr, ← hacc, ← hmar, ← hopr, ← hstep, ← hcfg]
    refine ⟨pc_of_unwritten hu, gpr_of_unwritten hu, fun hin hadd hcma hcla hrol hror => ?_,
      mar_of_unwritten hu, opr_of_unwritten hu, step_of_unwritten hu⟩
    exact acc_of_unwritten hu hin (by simp [accOps, aluMask, hadd, hcma, hcla, hrol, hror])

/-- Settles O43: on the reference layout STEP has the sentinel and no input line, and a row is looked up at
STEP 10 at most. -/
theorem stepCountsEveryPulse : Obligations.StepCountsEveryPulse := by
  intro s t n w (hl : s.cfg.layout = referenceLayout) hrun e ht hn hw
  obtain ⟨-, -, -, -, -, count⟩ := incrementLinesAddOne.2 s t n w hrun hn hw e ht
  have hclr : s.workingWord w &&& s.cfg.layout.clr ≠ 0 ↔ w &&& 0x080000 ≠ 0 := by
    have hipc : intersects s.cfg.layout.ipc s.cfg.layout.clr = false := by rw [hl]; decide
    rw [← intersects_eq_true_iff, intersects_workingWord_of_disjoint hipc, hl, intersects_eq_true_iff]
    rfl
  have hstep : t.step = (if w &&& 0x080000 ≠ 0 then 0 else s.step) + 1 := by
    rw [count (by rw [hl]; exact BitVec.and_zero)]
    simp only [hclr]
    rw [hl]
    rfl
  have hwindow : s.step.toNat ≤ 10 := by
    obtain h | h | h := nextRow_some_cases hn <;> omega
  rw [hstep]
  split
  · exact ⟨rfl, by decide⟩
  · exact ⟨rfl, by simp [BitVec.le_def]; omega⟩

end Sys2Proof.Machine

namespace Sys2Proof.Machine

/-! ### Z and F through one ALU operation (42_alu_ops.md R152 to R161) -/

/-- No ALU operation touches Z. -/
theorem applyAlu_keeps_flagZ (s : State) (op : AluOp) : flagZ (s.applyAlu op).flg = flagZ s.flg := by
  cases op
  case a2g | add | cma | cla => rfl
  case cmf => exact flagZ_complementF s.flg
  case clf => exact flagZ_clearF s.flg
  case rol => exact flagZ_rotateLeftFlg s.acc s.flg
  case ror => exact flagZ_rotateRightFlg s.acc s.flg

/-- The operations that write F (42_alu_ops.md R157, R159, R160, R161). -/
def flagOps : List AluOp := [.cmf, .clf, .rol, .ror]

theorem applyAlu_keeps_flg (s : State) {op : AluOp} (h : op ∉ flagOps) : (s.applyAlu op).flg = s.flg := by
  cases op
  case a2g | add | cma | cla => rfl
  all_goals exact absurd (by decide) h

theorem aluOperation_keeps_flagZ {s t : State} (e : s.aluOperation = .ok t) : flagZ t.flg = flagZ s.flg := by
  obtain rfl | ⟨op, -, rfl⟩ := aluOperation_cases e
  · rfl
  · exact applyAlu_keeps_flagZ s op

theorem aluOperation_keeps_flg {s t : State} (e : s.aluOperation = .ok t)
    (h : ∀ op ∈ flagOps, s.cw &&& aluMask s.cfg.layout op = 0) : t.flg = s.flg := by
  obtain rfl | ⟨op, hop, rfl⟩ := aluOperation_cases e
  · rfl
  · exact applyAlu_keeps_flg s fun hflag => intersects_eq_true_iff.1 hop (h op hflag)

theorem requestedOps_length_le_one {s t : State} (e : s.aluOperation = .ok t) :
    (requestedOps s.cfg.layout s.cw).length ≤ 1 := by
  obtain ⟨h, -⟩ | ⟨op, h, -⟩ := aluOperation_ok_cases e <;> simp [h]

/-- The inverted F beside the recomputed Z. -/
theorem complementF_recomputeZ (g : Word) (flg : FlagBits) :
    complementF (recomputeZ g flg) = (if g = 0 then 2 else 0) ||| (if flg.getLsbD 0 then 0 else 1) := by
  unfold recomputeZ
  split <;> (revert flg; decide)

/-- The cleared F beside the recomputed Z. -/
theorem clearF_recomputeZ (g : Word) (flg : FlagBits) :
    clearF (recomputeZ g flg) = if g = 0 then 2 else 0 := by
  unfold recomputeZ
  split <;> (revert flg; decide)

/-! ### The rotations as the statements write them (42_alu_ops.md R160, R161) -/

/-- A rotate left: every bit one up, and F into bit 0. -/
theorem rotateLeftAcc_bits (a : Word) (flg : FlagBits) :
    (rotateLeftAcc a flg).getLsbD 0 = flagF flg ∧
      ∀ k : Nat, 1 ≤ k → k < 12 → (rotateLeftAcc a flg).getLsbD k = a.getLsbD (k - 1) :=
  ⟨getLsbD_rotateLeftAcc a flg (by decide), fun k h1 hk => by
    rw [getLsbD_rotateLeftAcc a flg hk, if_neg (by omega)]⟩

/-- A rotate right: every bit one down, and F into bit 11. -/
theorem rotateRightAcc_bits (a : Word) (flg : FlagBits) :
    (rotateRightAcc a flg).getLsbD 11 = flagF flg ∧
      ∀ k : Nat, k < 11 → (rotateRightAcc a flg).getLsbD k = a.getLsbD (k + 1) :=
  ⟨getLsbD_rotateRightAcc a flg (by decide), fun k hk => by
    rw [getLsbD_rotateRightAcc a flg (by omega), if_neg (by omega)]⟩

/-! ### The word of one ALU line on the reference layout -/

/-- The line of an ALU operation asserts nothing else that acts: no line of the control unit, no increment, no
driver, no other operation, no latch, and neither of the router's combinations. -/
theorem aluLine_requests_only_its_operation (op : AluOp) :
    let w := aluMask referenceLayout op
    intersects w (lineIpcF0 ||| lineIpcZ1 ||| lineClrSc ||| lineHalt) = false ∧
      intersects w (lineIpc ||| lineIgpr ||| lineIacc) = false ∧ drivers referenceLayout w = [] ∧
      requestedOps referenceLayout w = [op] ∧ latchesBus referenceLayout w = false ∧
      w ≠ wordSwap ∧ w ≠ wordExtract := by
  cases op <;> decide

theorem aluOperation_of_one_request {s : State} {op : AluOp} (h : requestedOps s.cfg.layout s.cw = [op]) :
    s.aluOperation = .ok (s.applyAlu op) := by
  simp only [State.aluOperation, h]

/-- The router and the low level have nothing to do after the operation of such a word. -/
theorem lowLevel_route_of_idle_word {u : State} (hswap : u.cw ≠ u.cfg.layout.swap)
    (hextract : u.cw ≠ u.cfg.layout.extract) (hlatch : latchesBus u.cfg.layout u.cw = false) :
    u.route.lowLevel = u := by
  rw [route_of_other hswap hextract, lowLevel_of_unlatched hlatch]

/-- A word that drives and increments nothing comes to the ALU as the idle pulse. -/
theorem exists_highLevel_deriveZ_eq_idlePulse {s : State} {w : ControlWord}
    (hl : s.cfg.layout = referenceLayout) (hd : drivers referenceLayout w = [])
    (hinc : intersects w (lineIpc ||| lineIgpr ||| lineIacc) = false) :
    ∃ h, State.highLevel { s with cw := w } = .ok h ∧
      (registerOrder.foldl State.incrementIfEnabled h).deriveZ = idlePulse s w := by
  refine ⟨_, highLevel_of_undriven (s := { s with cw := w }) (hl ▸ hd), ?_⟩
  simp only [intersects_or_right, Bool.or_eq_false_iff] at hinc
  obtain ⟨⟨hipc, higpr⟩, hiacc⟩ := hinc
  rw [incrementLoop_eq]
  simp [hl, referenceLayout, incrementEnabled, hipc, higpr, hiacc, idlePulse, drivenPulse, State.deriveZ,
    recomputeZ, registerIncrement, State.precomputedSum]

/-- The pulse of one ALU line: what every completed pulse does, then the operation. -/
theorem runWord_aluLine {s : State} (hl : s.cfg.layout = referenceLayout) (hs : s.halted = false) (op : AluOp) :
    runWord (aluMask referenceLayout op) s =
      .next ((idlePulse s (aluMask referenceLayout op)).applyAlu op) := by
  obtain ⟨hlines, hinc, hdrivers, hops, hlatch, hswap, hextract⟩ := aluLine_requests_only_its_operation op
  generalize aluMask referenceLayout op = w at *
  simp only [intersects_or_right, Bool.or_eq_false_iff] at hlines
  obtain ⟨⟨⟨hipcF0, hipcZ1⟩, hclr⟩, hhlt⟩ := hlines
  have hcond (f z : Bool) : conditionalIncrements s.cfg.layout f z w = w := by
    simp [conditionalIncrements, hl, referenceLayout, hipcF0, hipcZ1]
  obtain ⟨h, hhigh, hidle⟩ := exists_highLevel_deriveZ_eq_idlePulse hl hdrivers hinc
  have halu : (registerOrder.foldl State.incrementIfEnabled h).deriveZ.aluOperation =
      .ok ((idlePulse s w).applyAlu op) := by
    rw [hidle]
    exact aluOperation_of_one_request (hl ▸ hops)
  have hcw : ((idlePulse s w).applyAlu op).cw = w := by rw [applyAlu_keeps]; rfl
  have hlayout : ((idlePulse s w).applyAlu op).cfg.layout = referenceLayout := by rw [applyAlu_keeps]; exact hl
  have hrest : ((idlePulse s w).applyAlu op).route.lowLevel = (idlePulse s w).applyAlu op := by
    apply lowLevel_route_of_idle_word <;> rw [hcw, hlayout] <;> assumption
  rw [runWord_completing hs (hcond _ _) (hl ▸ hclr) (hl ▸ hhlt),
    laterPhases_of_phases hhigh (fallingEdge_of_aluOperation halu), hrest]

/-! ### The ALU of a completed pulse, for every configuration -/

/-- The ALU of the pulse from `s` to `t`: the state `a` it acts on, with the increments and Z done and SUM from
the starting values, and the state `u` it leaves, of which the router and the low level keep what is not
swapped or latched (40_clock_phases.md R120, R121). -/
structure AluStage (s t a u : State) : Prop where
  operation : a.aluOperation = .ok u
  cw : a.cw = t.cw
  cfg : a.cfg = s.cfg
  sum : a.sum = s.acc + s.gpr
  acc : a.acc = incremented t.cw s.cfg.layout.acc.increment s.acc
  flg : a.flg = recomputeZ (incremented t.cw s.cfg.layout.gpr.increment s.gpr)
    (incremented t.cw s.cfg.layout.flg.increment s.flg)
  gprKept : t.cw &&& s.cfg.layout.gpr.input = 0 → t.cw ≠ s.cfg.layout.swap → t.gpr = u.gpr
  accKept : t.cw &&& s.cfg.layout.acc.input = 0 → t.acc = u.acc
  flgKept : t.cw &&& s.cfg.layout.flg.input = 0 → t.flg = u.flg

theorem exists_aluStage_of_step {s t : State} (hs : s.halted = false) (e : step s = .next t)
    (ht : t.halted = false) : ∃ a u : State, AluStage s t a u := by
  obtain ⟨hx, -⟩ | ⟨_, w, -, -, hrun⟩ := step_next_cases e
  · rw [hs] at hx; cases hx
  obtain ⟨r, i, u, -, htr, -, -, hicw, hicfg, hsum, -, hgpr, hacc, -, hflg, -, -, hu, hur, hcfg, rfl⟩ :=
    completed_pulse hs hrun ht
  obtain ⟨-, gprLatch, accLatch, -, flgLatch, -, -⟩ := lowLevel_route_unlatched u
  obtain ⟨accRoute, -, flgRoute, -⟩ := route_others u
  rw [← htr] at hicw hgpr hacc hflg hur
  rw [hur, hcfg] at gprLatch accLatch flgLatch
  exact ⟨i.deriveZ, u,
    { operation := hu
      cw := hicw
      cfg := hicfg
      sum := hsum
      acc := hacc
      flg := by rw [deriveZ_flg, hgpr, hflg]
      gprKept := fun hin hswap => (gprLatch hin).trans (route_pc_gpr (by rwa [hur, hcfg])).2
      accKept := fun hin => (accLatch hin).trans accRoute
      flgKept := fun hin => (flgLatch hin).trans flgRoute }⟩

namespace AluStage

variable {s t a u : State} (stage : AluStage s t a u)

include stage

theorem one_request : (requestedOps s.cfg.layout t.cw).length ≤ 1 := by
  rw [← stage.cw, ← stage.cfg]
  exact requestedOps_length_le_one stage.operation

/-- The requested operation is the one performed. -/
theorem performed {op : AluOp} (h : t.cw &&& aluMask s.cfg.layout op ≠ 0) : u = a.applyAlu op := by
  rw [← stage.cw, ← stage.cfg] at h
  exact aluOperation_of_requested stage.operation (intersects_eq_true_iff.2 h)

/-- F as the ALU reads it: the Z computation keeps it. -/
theorem flagF_eq : flagF a.flg = flagF (incremented t.cw s.cfg.layout.flg.increment s.flg) := by
  rw [stage.flg, flagF_recomputeZ]

/-- Z where no latch writes FLG: that of the incremented GPR (42_alu_ops.md R152). -/
theorem flagZ_of_unlatched (hin : t.cw &&& s.cfg.layout.flg.input = 0) :
    flagZ t.flg = true ↔ incremented t.cw s.cfg.layout.gpr.increment s.gpr = 0 := by
  rw [stage.flgKept hin, aluOperation_keeps_flagZ stage.operation, stage.flg, flagZ_recomputeZ,
    decide_eq_true_iff]

/-- F where no latch and no operation writes it: that of the incremented FLG. -/
theorem flagF_of_unwritten (hin : t.cw &&& s.cfg.layout.flg.input = 0)
    (hops : ∀ op ∈ flagOps, t.cw &&& aluMask s.cfg.layout op = 0) :
    flagF t.flg = flagF (incremented t.cw s.cfg.layout.flg.increment s.flg) := by
  rw [← stage.cw, ← stage.cfg] at hops
  rw [stage.flgKept hin, aluOperation_keeps_flg stage.operation hops, stage.flagF_eq]

end AluStage

/-- Settles O33. On the reference layout each line is the idle pulse with its operation; for every
configuration, the requested operation is the one performed. -/
theorem aluOperations : Obligations.AluOperations := by
  refine ⟨fun s hl hs => ?_, ?_⟩
  · have line := runWord_aluLine hl hs
    refine ⟨line .a2g, line .add, line .cma, line .cla, (line .cmf).trans ?_, (line .clf).trans ?_⟩
    · rw [← complementF_recomputeZ]; rfl
    · rw [← clearF_recomputeZ s.gpr s.flg]; rfl
  · rintro s t ⟨-, hs⟩ e ht
    obtain ⟨a, u, stage⟩ := exists_aluStage_of_step hs e ht
    dsimp only
    rw [← stage.acc, ← stage.sum]
    refine ⟨stage.one_request, fun hin hswap h => ?_, fun hin => ⟨fun h => ?_, fun h => ?_, fun h => ?_⟩,
      fun hin => ⟨fun h => ?_, fun h => ?_⟩⟩
    · rw [stage.gprKept hin hswap, stage.performed (op := .a2g) h]; rfl
    · rw [stage.accKept hin, stage.performed (op := .add) h]; rfl
    · rw [stage.accKept hin, stage.performed (op := .cma) h]; rfl
    · rw [stage.accKept hin, stage.performed (op := .cla) h]; rfl
    · rw [stage.flgKept hin, stage.performed (op := .cmf) h]
      exact (flagF_complementF a.flg).trans (congrArg _ stage.flagF_eq)
    · rw [stage.flgKept hin, stage.performed (op := .clf) h]
      exact flagF_clearF a.flg

/-- Settles O34: as in O33, and the rotations bit by bit. -/
theorem aluRotations : Obligations.AluRotations := by
  refine ⟨fun s hl hs => ⟨⟨_, runWord_aluLine hl hs .rol, ?_⟩, ⟨_, runWord_aluLine hl hs .ror, ?_⟩⟩, ?_⟩
  · obtain ⟨low, others⟩ := rotateLeftAcc_bits s.acc (recomputeZ s.gpr s.flg)
    exact ⟨others, low.trans (flagF_recomputeZ _ _), flagF_rotateLeftFlg _ _,
      (flagZ_rotateLeftFlg _ _).trans (flagZ_recomputeZ _ _), rfl⟩
  · obtain ⟨high, others⟩ := rotateRightAcc_bits s.acc (recomputeZ s.gpr s.flg)
    exact ⟨others, high.trans (flagF_recomputeZ _ _), flagF_rotateRightFlg _ _,
      (flagZ_rotateRightFlg _ _).trans (flagZ_recomputeZ _ _), rfl⟩
  · rintro s t ⟨-, hs⟩ e ht
    obtain ⟨a, u, stage⟩ := exists_aluStage_of_step hs e ht
    dsimp only
    rw [← stage.acc]
    refine ⟨fun h => ⟨fun hin => ?_, fun hin => ?_⟩, fun h => ⟨fun hin => ?_, fun hin => ?_⟩⟩
    · obtain ⟨low, others⟩ := rotateLeftAcc_bits a.acc a.flg
      rw [stage.accKept hin, stage.performed (op := .rol) h]
      exact ⟨low.trans stage.flagF_eq, others⟩
    · rw [stage.flgKept hin, stage.performed (op := .rol) h]
      exact flagF_rotateLeftFlg a.acc a.flg
    · obtain ⟨high, others⟩ := rotateRightAcc_bits a.acc a.flg
      rw [stage.accKept hin, stage.performed (op := .ror) h]
      exact ⟨high.trans stage.flagF_eq, others⟩
    · rw [stage.flgKept hin, stage.performed (op := .ror) h]
      exact flagF_rotateRightFlg a.acc a.flg

/-- The lines of the operations on F in the reference layout are the four of 0xE800. -/
theorem flagOps_unrequested_of_reference {w : ControlWord} (h : w &&& 0x00E800 = 0) :
    ∀ op ∈ flagOps, w &&& aluMask referenceLayout op = 0 := by
  have hmask : ∀ op ∈ flagOps, 0x00E800 &&& aluMask referenceLayout op = aluMask referenceLayout op := by decide
  intro op hop
  rw [← hmask op hop, ← BitVec.and_assoc, h]
  exact BitVec.zero_and

/-- Settles O42: Z is derived before the ALU operation, no operation touches it, and only the operations on F
touch F. On the reference layout FLG has neither an input nor an increment line. -/
theorem zFollowsGprEveryPulse : Obligations.ZFollowsGprEveryPulse := by
  refine ⟨?_, ?_⟩
  · rintro s t ⟨-, hs⟩ e ht
    obtain ⟨a, u, stage⟩ := exists_aluStage_of_step hs e ht
    refine fun hin => ⟨stage.flagZ_of_unlatched hin, fun hcmf hclf hrol hror => ?_⟩
    exact stage.flagF_of_unwritten hin (by simp [flagOps, aluMask, hcmf, hclf, hrol, hror])
  · rintro s t (hl : s.cfg.layout = referenceLayout) ⟨-, hs⟩ e ht
    obtain ⟨a, u, stage⟩ := exists_aluStage_of_step hs e ht
    have hin : t.cw &&& s.cfg.layout.flg.input = 0 := by rw [hl]; exact BitVec.and_zero
    have hflg : incremented t.cw s.cfg.layout.flg.increment s.flg = s.flg := by
      rw [hl]; exact if_neg (not_not.2 BitVec.and_zero)
    have hZ := stage.flagZ_of_unlatched hin
    rw [hl] at hZ
    refine ⟨hZ, fun h => ?_⟩
    exact hflg ▸ stage.flagF_of_unwritten hin (hl ▸ flagOps_unrequested_of_reference h)

end Sys2Proof.Machine

namespace Sys2Proof.Machine

/-! ### Reading back a write (20_memory.md R65, R70) -/

theorem Memory.read_cons_of_ne {k : Nat} {b : Addr} (h : k ≠ b.toNat) (x : Word) (rest : Memory) :
    Memory.read ((k, x) :: rest) b = Memory.read rest b := if_neg h

theorem Memory.read_cons_of_eq {k : Nat} {b : Addr} (h : k = b.toNat) (x : Word) (rest : Memory) :
    Memory.read ((k, x) :: rest) b = x := if_pos h

/-- A write replaces no other word, in any memory list. -/
theorem Memory.read_write_of_ne {a b : Addr} (hab : b ≠ a) (m : Memory) (v : Word) :
    (m.write a v).read b = m.read b := by
  have hne : a.toNat ≠ b.toNat := fun e => hab (BitVec.eq_of_toNat_eq e.symm)
  induction m with
  | nil =>
    rw [Memory.write]
    split_ifs
    · rfl
    · exact Memory.read_cons_of_ne hne v []
  | cons c rest ih =>
    obtain ⟨k, x⟩ := c
    simp only [Memory.write]
    split_ifs with hlt hv hk hv
    · rfl
    · exact Memory.read_cons_of_ne hne v _
    · exact (Memory.read_cons_of_ne (hk ▸ hne) x rest).symm
    · rw [Memory.read_cons_of_ne (hk ▸ hne), Memory.read_cons_of_ne (hk ▸ hne)]
    · simp only [Memory.read, ih]

/-- A canonical memory reads the word last written; a written 0 is read because no cell of the address is
left. -/
theorem Memory.read_write_self {lo : Nat} {m : Memory} (hm : Memory.wfFrom lo m = true) (a : Addr) (v : Word) :
    (m.write a v).read a = v := by
  induction m generalizing lo with
  | nil =>
    rw [Memory.write]
    split_ifs with hv
    · exact hv.symm
    · exact Memory.read_cons_of_eq rfl v []
  | cons c rest ih =>
    obtain ⟨k, x⟩ := c
    obtain ⟨-, -, -, hrest⟩ := Memory.wfFrom_cons.1 hm
    simp only [Memory.write]
    split_ifs with hlt hv hk hv
    · rw [Memory.read_cons_of_ne (by omega), Memory.read_below (by omega) hrest, hv]
    · exact Memory.read_cons_of_eq rfl v _
    · rw [Memory.read_below (by omega) hrest, hv]
    · exact Memory.read_cons_of_eq hk.symm v rest
    · rw [Memory.read_cons_of_ne (by omega), ih hrest]

/-! ### Memory after a completed pulse (43_memory_ops.md R171) -/

/-- Memory up to the low level is that of the start of the pulse, so a completed pulse leaves it, or the
store of its bus value at its MAR. For every configuration. -/
theorem mem_of_step {s t : State} (hs : s.halted = false) (e : step s = .next t) (ht : t.halted = false) :
    t.mem = if intersects t.cw s.cfg.layout.memIn then s.mem.write t.mar t.bus else s.mem := by
  rw [← step_keeps_cfg e]
  obtain ⟨hx, -⟩ | ⟨_, w, -, -, hrun⟩ := step_next_cases e
  · rw [hs] at hx; cases hx
  obtain ⟨hx, -⟩ | ⟨-, r, hr, ⟨hx, rfl⟩ | ⟨-, h, f, hhigh, hfall, rfl⟩⟩ := runWord_next_cases hrun
  · rw [hs] at hx; cases hx
  · rw [ht] at hx; cases hx
  have hrmem : r.mem = s.mem := by rw [risingEdge_keeps hr]
  have hhmem : h.mem = r.mem := by obtain ⟨-, rfl⟩ | ⟨_, -, rfl⟩ := highLevel_ok_cases hhigh <;> rfl
  obtain ⟨-, -, -, hfmem, -⟩ := fallingEdge_keeps hfall
  obtain ⟨hcfg, hcw, -, hbus, -⟩ := lowLevel_keeps f
  rw [lowLevel_mem, hcfg, hcw, hbus, hfmem, hhmem, hrmem]

/-- Settles O22: the pulse's one act on memory is the store, read back and framed by the rules of a write. -/
theorem storesGoToTheNewMar : Obligations.StoresGoToTheNewMar := by
  rintro s t ⟨-, hs⟩ hwf e ht
  have hmem := mem_of_step hs e ht
  refine ⟨fun hin => ?_, fun hin => ?_⟩
  · rw [if_pos (intersects_eq_true_iff.2 hin)] at hmem
    simp only [State.memoryView, hmem]
    exact ⟨Memory.read_write_self hwf t.mar t.bus, fun a ha => Memory.read_write_of_ne ha s.mem t.bus⟩
  · rwa [intersects_eq_false_iff.2 hin] at hmem

end Sys2Proof.Machine

namespace Sys2Proof.Machine

/-! ### The fields of the swap (44_bus_router_ops.md R181) -/

/-- The swap's low byte mask cuts nothing off PC, which is a byte. -/
theorem setWidth_and_lowByte (p : PcValue) : (p.setWidth 12 &&& 0x0FF : Word) = p.setWidth 12 := by
  rw [show (0x0FF : Word) = (BitVec.allOnes 8).setWidth 12 by decide, ← BitVec.setWidth_and, BitVec.and_allOnes]

/-- The low byte of a word, as the mask keeps it. -/
theorem setWidth_setWidth_eq_and_lowByte (g : Word) : ((g.setWidth 8).setWidth 12 : Word) = g &&& 0x0FF := by
  have hmask : (g &&& 0x0FF).toNat = g.toNat % 256 := Nat.and_two_pow_sub_one_eq_mod g.toNat 8
  refine BitVec.eq_of_toNat_eq ?_
  rw [hmask, BitVec.toNat_setWidth, BitVec.toNat_setWidth]
  omega

/-- The low byte of a swapped GPR is PC. -/
theorem setWidth_highBits_or (g : Word) (p : PcValue) :
    ((g &&& 0xF00) ||| p.setWidth 12 : Word).setWidth 8 = p := by
  simp [BitVec.setWidth_or, BitVec.setWidth_and]

/-- The top four bits of a swapped GPR are its own. -/
theorem highBits_or_and_highBits (g : Word) (p : PcValue) :
    ((g &&& 0xF00) ||| p.setWidth 12 : Word) &&& 0xF00 = g &&& 0xF00 := by
  have hpc : (p.setWidth 12 &&& 0xF00 : Word) = 0 := by
    rw [← setWidth_and_lowByte, BitVec.and_assoc]
    exact BitVec.and_zero
  rw [BitVec.and_or_distrib_right, hpc, BitVec.and_assoc, BitVec.and_self]
  exact BitVec.or_zero

/-- A word is its top four bits over its low byte. -/
theorem highBits_or_lowByte (g : Word) : ((g &&& 0xF00) ||| (g.setWidth 8).setWidth 12 : Word) = g := by
  rw [setWidth_setWidth_eq_and_lowByte, ← BitVec.and_or_distrib_left]
  exact BitVec.and_allOnes

/-- The swap as the statements write it. -/
theorem swapPcGpr_eq (s : State) :
    s.swapPcGpr = { s with pc := s.gpr.setWidth 8, gpr := (s.gpr &&& 0xF00) ||| s.pc.setWidth 12 } := by
  rw [← setWidth_and_lowByte s.pc]
  simp [State.swapPcGpr, operandField]

/-- The swap undoes itself: the low bytes change places twice, and the top four bits of GPR stay. -/
theorem swapPcGpr_swapPcGpr (s : State) : s.swapPcGpr.swapPcGpr = s := by
  rw [swapPcGpr_eq, swapPcGpr_eq]
  simp only [setWidth_highBits_or, highBits_or_and_highBits, highBits_or_lowByte]

/-! ### The two combinations on the reference layout (44_bus_router_ops.md R180 to R182) -/

/-- On the reference layout a word without a line of the control unit is published as it is, and its later
phases run. -/
theorem runWord_of_no_control_line {w : ControlWord} {s : State} (hl : s.cfg.layout = referenceLayout)
    (hs : s.halted = false) (hw : intersects w (lineIpcF0 ||| lineIpcZ1 ||| lineClrSc ||| lineHalt) = false) :
    runWord w s = State.laterPhases { s with cw := w } := by
  simp only [intersects_or_right, Bool.or_eq_false_iff] at hw
  obtain ⟨⟨⟨hipcF0, hipcZ1⟩, hclr⟩, hhlt⟩ := hw
  refine runWord_completing hs ?_ (hl ▸ hclr) (hl ▸ hhlt)
  simp [conditionalIncrements, hl, referenceLayout, hipcF0, hipcZ1]

/-- The word asserts no line that another unit reads: no line of the control unit, no increment, no driver, no
ALU operation and no latch. What it can still do is equal one of the router's combinations. -/
abbrev OnlyRoutes (w : ControlWord) : Prop :=
  intersects w (lineIpcF0 ||| lineIpcZ1 ||| lineClrSc ||| lineHalt) = false ∧
    intersects w (lineIpc ||| lineIgpr ||| lineIacc) = false ∧ drivers referenceLayout w = [] ∧
    requestedOps referenceLayout w = [] ∧ latchesBus referenceLayout w = false

/-- The pulse of such a word: what every completed pulse does, then the router. -/
theorem OnlyRoutes.runWord_eq {w : ControlWord} {s : State} (hw : OnlyRoutes w)
    (hl : s.cfg.layout = referenceLayout) (hs : s.halted = false) :
    runWord w s = .next (idlePulse s w).route := by
  obtain ⟨hlines, hinc, hdrivers, hops, hlatch⟩ := hw
  obtain ⟨h, hhigh, hidle⟩ := exists_highLevel_deriveZ_eq_idlePulse hl hdrivers hinc
  have halu : (registerOrder.foldl State.incrementIfEnabled h).deriveZ.aluOperation = .ok (idlePulse s w) := by
    rw [hidle]
    exact aluOperation_of_unrequested (hl ▸ hops)
  have hlow : (idlePulse s w).route.lowLevel = (idlePulse s w).route :=
    lowLevel_of_unlatched (by rw [route_keeps_cfg, route_keeps_cw]; exact hl ▸ hlatch)
  rw [runWord_of_no_control_line hl hs hlines, laterPhases_of_phases hhigh (fallingEdge_of_aluOperation halu),
    hlow]

theorem runWord_swap {s : State} (hl : s.cfg.layout = referenceLayout) (hs : s.halted = false) :
    runWord wordSwap s = .next (idlePulse s wordSwap).swapPcGpr := by
  rw [OnlyRoutes.runWord_eq (by decide) hl hs]
  exact congrArg _ (route_of_swap (by rw [show (idlePulse s wordSwap).cfg.layout = _ from hl]; rfl))

theorem runWord_extract {s : State} (hl : s.cfg.layout = referenceLayout) (hs : s.halted = false) :
    runWord wordExtract s = .next (idlePulse s wordExtract).extractOpcode := by
  have hcfg : (idlePulse s wordExtract).cfg.layout = referenceLayout := hl
  rw [OnlyRoutes.runWord_eq (by decide) hl hs]
  exact congrArg _ (route_of_extract (hcfg ▸ (by decide : wordExtract ≠ wordSwap)) (by rw [hcfg]; rfl))

/-! ### The router of a completed pulse, for every configuration -/

/-- GPR after the ALU: ACC if the transfer is requested, otherwise as it was (42_alu_ops.md R154). -/
theorem aluOperation_gpr {s t : State} (e : s.aluOperation = .ok t) :
    t.gpr = if s.cw &&& s.cfg.layout.a2g ≠ 0 then s.acc else s.gpr := by
  split
  next h => rw [aluOperation_of_requested (op := .a2g) e (intersects_eq_true_iff.2 h)]; rfl
  next h => exact aluOperation_keeps_gpr e (intersects_eq_false_iff.2 (not_not.1 h))

/-- What the router of a completed pulse works on: PC, GPR and OPR as the increments and the ALU left them. -/
theorem exists_routed_of_step {s t : State} (hs : s.halted = false) (e : step s = .next t)
    (ht : t.halted = false) :
    ∃ u : State, t = u.route.lowLevel ∧ u.cw = t.cw ∧ u.cfg = s.cfg ∧
      u.pc = incremented t.cw s.cfg.layout.pc.increment s.pc ∧
      u.gpr = (if t.cw &&& s.cfg.layout.a2g ≠ 0 then incremented t.cw s.cfg.layout.acc.increment s.acc
        else incremented t.cw s.cfg.layout.gpr.increment s.gpr) ∧
      u.opr = incremented t.cw s.cfg.layout.opr.increment s.opr := by
  obtain ⟨hx, -⟩ | ⟨_, w, -, -, hrun⟩ := step_next_cases e
  · rw [hs] at hx; cases hx
  obtain ⟨r, i, u, -, htr, -, -, hicw, hicfg, -, hpc, hgpr, hacc, -, -, hopr, -, hu, hur, hcfg, ht'⟩ :=
    completed_pulse hs hrun ht
  have hgpr' := aluOperation_gpr hu
  rw [deriveZ_cw, deriveZ_cfg, deriveZ_acc, deriveZ_gpr, hicw, hicfg, hacc, hgpr] at hgpr'
  have hkeeps := aluOperation_keeps hu
  rw [htr]
  exact ⟨u, ht', hur, hcfg, by rw [hkeeps, deriveZ_pc, hpc], hgpr', by rw [hkeeps, deriveZ_opr, hopr]⟩

/-- Settles O38. On the reference layout both words only route, and the swap undoes itself; for every
configuration, what no latch overwrites is what the router made of the state it works on. -/
theorem routerCombinations : Obligations.RouterCombinations := by
  refine ⟨fun s hl hs => ⟨?_, ?_, runWord_extract hl hs⟩, ?_⟩
  · exact (runWord_swap hl hs).trans (congrArg _ (swapPcGpr_eq _))
  · have hpc : s.swapPcGpr.swapPcGpr.pc = s.pc := by rw [swapPcGpr_swapPcGpr]
    have hgpr : s.swapPcGpr.swapPcGpr.gpr = s.gpr := by rw [swapPcGpr_swapPcGpr]
    exact ⟨_, _, runWord_swap hl hs, runWord_swap (s := (idlePulse s wordSwap).swapPcGpr) hl hs, hpc, hgpr⟩
  · rintro s t ⟨-, hs⟩ e ht
    obtain ⟨u, htu, hcw, hcfg, hpc, hgpr, hopr⟩ := exists_routed_of_step hs e ht
    obtain ⟨pcLatch, gprLatch, -, -, -, oprLatch, -⟩ := lowLevel_route_unlatched u
    obtain ⟨-, -, -, -, oprRoute⟩ := route_others u
    rw [← htu] at pcLatch gprLatch oprLatch
    dsimp only
    rw [← hpc, ← hgpr, ← hopr, ← hcfg, ← hcw]
    refine ⟨fun hswap => ?_, fun hextract hswap hin => ?_, fun hswap => ?_, fun h hin => ?_⟩
    · rw [route_of_swap hswap, swapPcGpr_eq] at pcLatch gprLatch
      exact ⟨pcLatch, gprLatch⟩
    · rw [oprLatch hin, route_of_extract hswap hextract]
      rfl
    · obtain ⟨pcRoute, gprRoute⟩ := route_pc_gpr hswap
      exact ⟨fun hin => (pcLatch hin).trans pcRoute, fun hin => (gprLatch hin).trans gprRoute⟩
    · exact (oprLatch hin).trans (oprRoute h)

end Sys2Proof.Machine

namespace Sys2Proof.Machine

/-! ### The looked-up row as the statements write it (45_sequencer.md R193 to R196) -/

/-- An opcode's window as an index: the slot fills the bits below the opcode (R194). -/
theorem windowIndex_eq (o : Nat) {k : Nat} (hk : k < 8) : (o <<< 3) ||| k = 8 * o + k := by
  rw [← Nat.shiftLeft_add_eq_or_of_lt hk, Nat.shiftLeft_eq, mul_comm]

/-- The halt window as an index: the halt-bit covers the slot's own (R195). -/
theorem haltWindowIndex_eq : ∀ k < 8, 4 ||| k = 4 + k % 4 := by decide

/-- Settles O6: the row of a fetch step, of the halt window, of another opcode's window, and of no window. -/
theorem rowIndexFollowsStepAndOpcode : Obligations.RowIndexFollowsStepAndOpcode := by
  refine fun s => ⟨fun h => nextRow_of_fetch (le_lastFetchStep_iff.1 h), fun h3 h10 => ?_,
    fun h => nextRow_of_overrun (BitVec.lt_def.1 h)⟩
  have hfirst : 3 ≤ s.step.toNat := BitVec.le_def.1 h3
  have hlast : s.step.toNat ≤ 10 := le_stepMax_iff.1 h10
  by_cases ho : s.opr = 0
  · rw [nextRow_of_haltWindow hfirst hlast ho, if_pos ho, ho, ← haltWindowIndex_eq _ (by omega)]
    rfl
  · rw [nextRow_of_execute hfirst hlast ho, if_neg ho, Nat.or_zero, windowIndex_eq _ (by omega)]

/-! ### What stops a step (45_sequencer.md R196) -/

/-- No row is looked up exactly past the window. -/
theorem nextRow_eq_none_iff {s : State} : s.nextRow = none ↔ 10 < s.step := by
  refine ⟨fun h => BitVec.lt_def.2 ?_, fun h => nextRow_of_overrun (BitVec.lt_def.1 h)⟩
  by_contra hlast
  obtain hfetch | hfirst := lt_or_ge s.step.toNat 3
  · rw [nextRow_of_fetch hfetch] at h; cases h
  · by_cases ho : s.opr = 0
    · rw [nextRow_of_haltWindow hfirst (not_lt.1 hlast) ho] at h; cases h
    · rw [nextRow_of_execute hfirst (not_lt.1 hlast) ho] at h; cases h

theorem runRow_ne_fault (i : Nat) (s : State) (f : Fault) : runRow i s ≠ .fault f := by
  unfold runRow
  split
  · nofun
  · split
    · nofun
    · exact runWord_ne_fault _ s f

/-- Settles O10: past the window the selected class is the overrun, and the pulse of a row is no fault. -/
theorem stuckExactlyPastTheWindow : Obligations.StuckExactlyPastTheWindow := by
  refine ⟨fun _ => rfl, ?_⟩
  rintro s ⟨hc, hs⟩
  have hstuck (h : 10 < s.step) : step s = .fault .windowOverrun := by
    rw [step_of_running hc hs, exec_selectIndex_of_no_row (nextRow_eq_none_iff.2 h)]
  refine ⟨⟨fun ⟨f, e⟩ => ?_, fun h => ⟨_, hstuck h⟩⟩, hstuck⟩
  rw [← nextRow_eq_none_iff, Option.eq_none_iff_forall_ne_some]
  intro i hi
  rw [step_of_running hc hs, exec_selectIndex_of_row hi] at e
  exact runRow_ne_fault i s f e

/-! ### The rising edge of a running machine (45_sequencer.md R197 to R203) -/

/-- The pulse after its rising edge: it ends there if that halts (R201). -/
theorem runWord_of_risingEdge {w : ControlWord} {s r : State} (hs : s.halted = false)
    (hr : s.risingEdge w = some r) : runWord w s = if r.halted then .next r else r.laterPhases := by
  simp only [runWord, hs, hr, Bool.false_eq_true, if_false]

/-- The rising edge halts exactly if the published word asserts the halt line (R201). -/
theorem risingEdge_halted {w : ControlWord} {s r : State} (hs : s.halted = false)
    (hr : s.risingEdge w = some r) : r.halted = intersects r.cw s.cfg.layout.hlt := by
  obtain ⟨-, rfl⟩ | ⟨-, w0, -, rfl⟩ := risingEdge_cases hr <;> simp [hs]

/-- The published word: row 0 if the working word asserts clear-step, otherwise that word (R200, R203). -/
theorem exists_risingEdge (s : State) (w : ControlWord) {w0 : ControlWord} (h0 : rowAt s.cfg 0 = some w0) :
    ∃ r, s.risingEdge w = some r ∧
      r.cw = if s.workingWord w &&& s.cfg.layout.clr ≠ 0 then w0 else s.workingWord w := by
  rw [workingWord_eq]
  split
  next hclr => exact ⟨_, by rw [risingEdge_of_clear (intersects_eq_true_iff.2 hclr), h0, Option.map_some], rfl⟩
  next hclr => exact ⟨_, risingEdge_of_no_clear (intersects_eq_false_iff.2 (not_not.1 hclr)), rfl⟩

/-- No later phase touches CW or HALTED, and a halting pulse is its rising edge (R201). -/
theorem published_of_runWord {w : ControlWord} {s t : State} (hs : s.halted = false)
    (e : runWord w s = .next t) :
    ∃ r, s.risingEdge w = some r ∧ t.cw = r.cw ∧ t.halted = r.halted ∧ (t.halted = true → t = r) := by
  obtain ⟨hx, -⟩ | ⟨-, r, hr, ⟨-, rfl⟩ | ⟨hrun, h, f, hh, hf, rfl⟩⟩ := runWord_next_cases e
  · rw [hs] at hx; cases hx
  · exact ⟨_, hr, rfl, rfl, fun _ => rfl⟩
  · obtain ⟨-, hlcw, hlhalted, -⟩ := lowLevel_keeps f
    obtain ⟨-, hfcw, hfhalted, -⟩ := fallingEdge_keeps hf
    have hhhalted : h.halted = r.halted := by
      obtain ⟨-, rfl⟩ | ⟨_, -, rfl⟩ := highLevel_ok_cases hh <;> rfl
    have hhalted : f.lowLevel.halted = r.halted := by rw [hlhalted, hfhalted, hhhalted]
    refine ⟨r, hr, by rw [hlcw, hfcw, (highLevel_keeps hh).2], hhalted, fun hx => ?_⟩
    rw [hhalted, hrun] at hx; cases hx

/-- Settles O28: a halting pulse is its rising edge, which changes CW, HALTED and STEP only. -/
theorem aHaltingPulseChangesOnlyCwAndHalted : Obligations.AHaltingPulseChangesOnlyCwAndHalted := by
  rintro s t n w ⟨-, hs⟩ hn hw e
  obtain ⟨r, hr, hcw, hhalted, heq⟩ := published_of_runWord hs (runWord_of_step hs hn hw e)
  refine ⟨by rw [hhalted, risingEdge_halted hs hr, intersects_eq_true_iff, hcw], fun ht => ?_⟩
  obtain rfl := heq ht
  rw [← risingEdge_step hr, ← ht]
  exact risingEdge_keeps hr

/-! ### The pulses of an admitted configuration complete (00_scope.md R9) -/

theorem configRefusal_eq_none_iff {c : Config} :
    configRefusal c = none ↔ wfTable c = true ∧ wfOneDriver c = true ∧ wfOneAluOp c = true := by
  unfold configRefusal
  split_ifs with htable hdriver halu <;> simp_all

/-- An admitted table has all its 128 rows, each a control word. -/
theorem exists_rowAt_of_admitted {c : Config} (hc : configRefusal c = none) {i : Nat} (hi : i < 128) :
    ∃ w, rowAt c i = some w := by
  obtain ⟨htable, -⟩ := configRefusal_eq_none_iff.1 hc
  simp only [wfTable, Bool.and_eq_true, beq_iff_eq, List.all_eq_true, decide_eq_true_eq] at htable
  obtain ⟨⟨⟨hlength, hrows⟩, -⟩, -⟩ := htable
  have hlt : i < c.ucode.length := hlength ▸ hi
  refine ⟨BitVec.ofNat Config.wCw c.ucode[i], ?_⟩
  simp only [rowAt, List.getElem?_eq_getElem hlt, if_pos (hrows _ (List.getElem_mem hlt))]

/-- A pulse that publishes an effective word of an admitted configuration completes with it. -/
theorem exists_next_of_effectiveWord {w : ControlWord} {s r : State} (hc : configRefusal s.cfg = none)
    (hs : s.halted = false) (hr : s.risingEdge w = some r) (heff : r.cw ∈ effectiveWords s.cfg) :
    ∃ t, runWord w s = .next t ∧ t.cw = r.cw := by
  obtain ⟨-, hdriver, halu⟩ := configRefusal_eq_none_iff.1 hc
  have hcfg : r.cfg = s.cfg := by rw [risingEdge_keeps hr]
  rw [← hcfg] at hdriver halu heff
  rw [runWord_of_risingEdge hs hr]
  split
  · exact ⟨r, rfl, rfl⟩
  · obtain ⟨t, e, hcw, -⟩ := laterPhases_completes (List.all_eq_true.1 hdriver _ heff)
      (List.all_eq_true.1 halu _ heff)
    exact ⟨t, e, hcw⟩

/-- An index class is the pulse of the row whose index it is (45_sequencer.md R193 to R195). -/
theorem exec_of_encode_ix {i : Instr} {n : RowIndex} (h : encode i = some (.ix n)) (s : State) :
    exec i s = runRow n.toNat s := by
  cases i
  case ixFetch step =>
    cases h
    have hn : (step.setWidth 7 : RowIndex).toNat = step.toNat := by revert step; decide
    exact (congrArg (runRow · s) hn).symm
  case ixExec opcode slot =>
    cases h
    have hn : (opcode.setWidth 7 <<< 3 ||| slot.setWidth 7 : RowIndex).toNat =
        opcode.toNat <<< 3 ||| slot.toNat := by
      revert opcode slot; decide
    exact (congrArg (runRow · s) hn).symm
  case ixExecHalt slot =>
    cases h
    have hn : (4#7 ||| slot.setWidth 7 : RowIndex).toNat = 4 ||| slot.toNat := by revert slot; decide
    exact (congrArg (runRow · s) hn).symm
  all_goals cases h

/-- Settles O9: the row is there, its published word is effective, and so its pulse completes. -/
theorem indexClassesPublishTheEffectiveWord : Obligations.IndexClassesPublishTheEffectiveWord := by
  rintro s i n ⟨hc, hs⟩ - hi
  obtain ⟨w, hw⟩ := exists_rowAt_of_admitted hc n.isLt
  obtain ⟨w0, h0⟩ := exists_rowAt_of_admitted hc (i := 0) (by decide)
  obtain ⟨r, hr, hcw⟩ := exists_risingEdge s w h0
  obtain ⟨t, e, ht⟩ := exists_next_of_effectiveWord hc hs hr (risingEdge_cw_mem_effectiveWords hw hr)
  exact ⟨t, w, w0, by rw [exec_of_encode_ix hi, runRow_of_row hw, e], hw, h0, ht.trans hcw⟩

/-! ### The clear-step and the halt line (45_sequencer.md R200, R201) -/

/-- A working word that asserts clear-step brings the rising edge to row 0 from STEP 0. -/
theorem risingEdge_of_workingWord_clear {s : State} {w : ControlWord}
    (h : s.workingWord w &&& s.cfg.layout.clr ≠ 0) :
    s.risingEdge w = (rowAt s.cfg 0).map (State.publish { s with step := 0 }) := by
  rw [workingWord_eq, ← intersects_eq_true_iff] at h
  exact risingEdge_of_clear h

/-- Settles O29: the rising edge of a clear-step word depends on row 0 alone, and the pulse on its rising
edge. -/
theorem clearStepDiscardsTheRest : Obligations.ClearStepDiscardsTheRest := by
  intro s v l
  refine ⟨fun h => intersects_eq_true_iff.1 (intersects_workingWord (intersects_eq_true_iff.2 h)),
    fun hv => ⟨fun w hw => ?_, fun t hs e => ?_, fun w0 hs h0 => ?_⟩⟩
  · simp only [runWord, risingEdge_of_workingWord_clear hv, risingEdge_of_workingWord_clear hw]
  · obtain ⟨r, hr, hcw, -⟩ := published_of_runWord hs e
    rw [risingEdge_of_workingWord_clear hv, Option.map_eq_some_iff] at hr
    obtain ⟨w0, h0, rfl⟩ := hr
    rw [h0, hcw, publish_cw]
  · have hrun := runWord_of_risingEdge hs (by rw [risingEdge_of_workingWord_clear hv, h0, Option.map_some])
    refine ⟨fun hhlt => ?_, fun hhlt => ?_⟩
    · simp [hrun, State.publish, hs, intersects_eq_false_iff.2 hhlt, l]
    · simp [hrun, State.publish, intersects_eq_true_iff.2 hhlt, l]

/-- The halt line ends the pulse in its rising edge (R201). -/
theorem runWord_lineHalt {s : State} (hl : s.cfg.layout = referenceLayout) (hs : s.halted = false) :
    runWord lineHalt s = .next { s with cw := lineHalt, halted := true } := by
  have hcond (f z : Bool) : conditionalIncrements s.cfg.layout f z lineHalt = lineHalt := by
    rw [hl]; revert f z; decide
  have hhlt : intersects lineHalt s.cfg.layout.hlt = true := by rw [hl]; decide
  have hr := risingEdge_of_no_clear (s := s) (w := lineHalt) (by rw [hcond, hl]; decide)
  rw [runWord_of_risingEdge hs hr, hcond]
  simp [State.publish, hhlt]

theorem workingWord_lineClrSc_clear {s : State} (hl : s.cfg.layout = referenceLayout) :
    s.workingWord lineClrSc &&& s.cfg.layout.clr ≠ 0 :=
  intersects_eq_true_iff.1 (intersects_workingWord (by rw [hl]; decide))

/-- Where row 0 is `T_PC_MAR`, the clear-step pulse is the first fetch pulse from STEP 0. -/
theorem runWord_lineClrSc_of_fetchRow {s : State} (hl : s.cfg.layout = referenceLayout)
    (hs : s.halted = false) (h0 : rowAt s.cfg 0 = some lineTPcMar) :
    runWord lineClrSc s =
      .next { drivenPulse s lineTPcMar (s.pc.setWidth 12) with mar := s.pc, step := 1 } := by
  obtain ⟨-, -, hrow0⟩ := (clearStepDiscardsTheRest s lineClrSc).2 (workingWord_lineClrSc_clear hl)
  obtain ⟨hcompletes, -⟩ := hrow0 lineTPcMar hs h0
  obtain ⟨hfetch, -⟩ := transferLinesMoveOneWord { s with step := 0 } hl hs
  calc runWord lineClrSc s
      = State.laterPhases { s with step := 0, cw := lineTPcMar } := hcompletes (by rw [hl]; decide)
    _ = runWord lineTPcMar { s with step := 0 } :=
        (runWord_of_no_control_line (s := { s with step := 0 }) hl hs (by decide)).symm
    _ = .next { drivenPulse s lineTPcMar (s.pc.setWidth 12) with mar := s.pc, step := 1 } := hfetch

/-- Settles O39: the clear-step line is a clear-step word on the reference layout, and row 0 is an effective
word. -/
theorem clearStepAndHaltLines : Obligations.ClearStepAndHaltLines := by
  intro s (hl : s.cfg.layout = referenceLayout) hs
  have hclr := workingWord_lineClrSc_clear hl
  obtain ⟨-, hpublishes, hrow0⟩ := (clearStepDiscardsTheRest s lineClrSc).2 hclr
  refine ⟨fun w0 h0 => ?_, fun hc => ?_, runWord_lineClrSc_of_fetchRow hl hs,
    runWord_lineHalt hl hs⟩
  · have hhlt : s.cfg.layout.hlt = lineHalt := by rw [hl]; rfl
    rw [hhlt] at hrow0
    exact hrow0 w0 hs h0
  · obtain ⟨w0, h0⟩ := exists_rowAt_of_admitted hc (i := 0) (by decide)
    obtain ⟨r, hr, hcw⟩ := exists_risingEdge s lineClrSc h0
    rw [if_pos hclr] at hcw
    obtain ⟨t, e, -⟩ := exists_next_of_effectiveWord hc hs hr (List.mem_append_left _ (by simp [h0, hcw]))
    exact ⟨t, e, hpublishes t hs e⟩

/-! ### The conditional increments on the reference layout (45_sequencer.md R198, R199) -/

/-- The word does nothing after the rising edge but count and, with the PC line, increment PC. -/
abbrev OnlyCountsPc (w : ControlWord) : Prop :=
  intersects w (lineIgpr ||| lineIacc) = false ∧ drivers referenceLayout w = [] ∧
    requestedOps referenceLayout w = [] ∧ latchesBus referenceLayout w = false ∧
    w ≠ wordSwap ∧ w ≠ wordExtract

/-- A word that drives nothing and increments PC at most comes to the ALU as the idle pulse with that PC. -/
theorem exists_highLevel_deriveZ_eq_idlePulse_incrementedPc {s : State} {w : ControlWord}
    (hl : s.cfg.layout = referenceLayout) (hd : drivers referenceLayout w = [])
    (hinc : intersects w (lineIgpr ||| lineIacc) = false) :
    ∃ h, State.highLevel { s with cw := w } = .ok h ∧
      (registerOrder.foldl State.incrementIfEnabled h).deriveZ =
        { idlePulse s w with pc := incremented w (.lines lineIpc) s.pc } := by
  refine ⟨_, highLevel_of_undriven (s := { s with cw := w }) (hl ▸ hd), ?_⟩
  rw [intersects_or_right, Bool.or_eq_false_iff] at hinc
  obtain ⟨higpr, hiacc⟩ := hinc
  rw [incrementLoop_eq]
  simp only [hl, referenceLayout, incremented_eq]
  simp [incrementEnabled, higpr, hiacc, idlePulse, drivenPulse, State.deriveZ, recomputeZ, registerIncrement,
    State.precomputedSum]

/-- The later phases of such a word. -/
theorem OnlyCountsPc.laterPhases_eq {w : ControlWord} {s : State} (hw : OnlyCountsPc w)
    (hl : s.cfg.layout = referenceLayout) :
    State.laterPhases { s with cw := w } =
      .next { idlePulse s w with pc := incremented w (.lines lineIpc) s.pc } := by
  obtain ⟨hinc, hdrivers, hops, hlatch, hswap, hextract⟩ := hw
  obtain ⟨h, hhigh, hidle⟩ := exists_highLevel_deriveZ_eq_idlePulse_incrementedPc hl hdrivers hinc
  have halu : (registerOrder.foldl State.incrementIfEnabled h).deriveZ.aluOperation = .ok _ :=
    aluOperation_of_unrequested (by rw [hidle]; exact hl ▸ hops)
  rw [laterPhases_of_phases hhigh (fallingEdge_of_aluOperation halu), hidle]
  exact congrArg _ (lowLevel_route_of_idle_word (hl ▸ hswap) (hl ▸ hextract) (hl ▸ hlatch))

/-- The pulse of a word of the conditional lines, by the word its increments make of it. -/
theorem runWord_of_effective {w e : ControlWord} {s : State} (hl : s.cfg.layout = referenceLayout)
    (hs : s.halted = false) (he : conditionalIncrements referenceLayout (flagF s.flg) (flagZ s.flg) w = e)
    (hlines : intersects e (lineClrSc ||| lineHalt) = false) (hw : OnlyCountsPc e) :
    runWord w s = .next { idlePulse s e with pc := incremented e (.lines lineIpc) s.pc } := by
  rw [intersects_or_right, Bool.or_eq_false_iff] at hlines
  obtain ⟨hclr, hhlt⟩ := hlines
  rw [runWord_completing hs (hl ▸ he) (hl ▸ hclr) (hl ▸ hhlt), hw.laterPhases_eq hl]

theorem conditionalIncrements_lineIpcF0 (f z : Bool) :
    conditionalIncrements referenceLayout f z lineIpcF0 = if f then lineIpcF0 else lineIpcF0 ||| lineIpc := by
  revert f z; decide

theorem conditionalIncrements_lineIpcZ1 (f z : Bool) :
    conditionalIncrements referenceLayout f z lineIpcZ1 = if z then lineIpcZ1 ||| lineIpc else lineIpcZ1 := by
  revert f z; decide

/-- Settles O37: by each flag, the effective word and its pulse. -/
theorem conditionalIncrementsTestTheFlags : Obligations.ConditionalIncrementsTestTheFlags := by
  intro s (hl : s.cfg.layout = referenceLayout) hs
  have run {w e : ControlWord} := runWord_of_effective (w := w) (e := e) hl hs
  refine ⟨?_, ?_⟩ <;> split
  next hf => exact run ((conditionalIncrements_lineIpcF0 _ _).trans (if_pos hf)) (by decide) (by decide)
  next hf => exact run ((conditionalIncrements_lineIpcF0 _ _).trans (if_neg hf)) (by decide) (by decide)
  next hz => exact run ((conditionalIncrements_lineIpcZ1 _ _).trans (if_pos hz)) (by decide) (by decide)
  next hz => exact run ((conditionalIncrements_lineIpcZ1 _ _).trans (if_neg hz)) (by decide) (by decide)

/-! ### The three fetch pulses of the reference table (45_sequencer.md R205) -/

/-- The step of a running machine is the pulse of the word it looks up. -/
theorem step_of_row {s : State} {n : Nat} {w : ControlWord} (hc : configRefusal s.cfg = none)
    (hs : s.halted = false) (hn : s.nextRow = some n) (hw : rowAt s.cfg n = some w) :
    step s = runWord w s := by
  rw [step_of_running hc hs, exec_selectIndex_of_row hn, runRow_of_row hw]

/-- A run's first step. -/
theorem run_succ_of_next {s t : State} (h : step s = .next t) (n : Nat) :
    Host.Core.run Sys2Proof.core (n + 1) s = Host.Core.run Sys2Proof.core n t := by
  simp only [Host.Core.run, Sys2Proof.core, h]

/-- The pulse of the first fetch row from STEP 0: MAR is PC (R205). -/
def State.afterFetchRow0 (s : State) : State :=
  { drivenPulse s lineTPcMar (s.pc.setWidth 12) with mar := s.pc, step := 1 }

/-- The pulse of the second fetch row: GPR is the word at MAR, and PC counts (R205). -/
def State.afterFetchRow1 (s : State) : State :=
  { drivenPulse s (lineTMGpr ||| lineIpc) (s.mem.read s.mar) with gpr := s.mem.read s.mar, pc := s.pc + 1 }

/-- A boundary's pulse is the first fetch pulse, at STEP 0 or by a clear-step word (R204). -/
theorem step_of_boundary {s : State} (hr : OnReference s) (hs : s.halted = false) (hb : AtBoundary s) :
    step s = .next s.afterFetchRow0 := by
  obtain ⟨hcfg, hc⟩ := hr
  have hl : s.cfg.layout = referenceLayout := by rw [hcfg]; rfl
  have h0 : rowAt s.cfg 0 = some lineTPcMar := by rw [hcfg]; rfl
  obtain hstep | ⟨n, w, hn, hw, hclr⟩ := hb
  · have hn : s.nextRow = some 0 := by rw [nextRow_of_fetch (by simp [hstep]), hstep]; rfl
    obtain ⟨hfetch, -⟩ := transferLinesMoveOneWord s hl hs
    rw [step_of_row hc hs hn h0]
    refine hfetch.trans ?_
    simp [State.afterFetchRow0, drivenPulse, hstep, lineTPcMar]
  · obtain ⟨hworking, hclear⟩ := clearStepDiscardsTheRest s w
    obtain ⟨hsame, -⟩ := hclear (hworking (intersects_eq_true_iff.1 hclr))
    rw [step_of_row hc hs hn hw, hsame lineClrSc (workingWord_lineClrSc_clear hl)]
    exact runWord_lineClrSc_of_fetchRow hl hs h0

/-- A transfer that also increments PC: the bus is what its source drives, and PC counts before the latches. -/
theorem OnlyMovesAndCounts.runWord_of_transfer_ipc {w : ControlWord} {s : State} {d : BusSource}
    (hw : OnlyMovesAndCounts w) (hl : s.cfg.layout = referenceLayout) (hs : s.halted = false)
    (hinc : intersects w (lineIgpr ||| lineIacc) = false) (hipc : intersects w lineIpc = true)
    (hd : drivers referenceLayout w = [d]) :
    runWord w s = .next (drivenPulse { s with pc := s.pc + 1 } w (s.driven d)).lowLevel := by
  rw [intersects_or_right, Bool.or_eq_false_iff] at hinc
  obtain ⟨higpr, hiacc⟩ := hinc
  have hhigh := highLevel_of_driver (s := { s with cw := w }) (hl ▸ hd)
  rw [hw.runWord_eq hl hs hhigh, driven_withCw, incrementLoop_eq]
  simp [hl, referenceLayout, incrementEnabled, hipc, higpr, hiacc, drivenPulse, State.deriveZ, recomputeZ,
    registerIncrement, State.precomputedSum]

theorem runWord_fetchRow1 {s : State} (hl : s.cfg.layout = referenceLayout) (hs : s.halted = false) :
    runWord (lineTMGpr ||| lineIpc) s = .next s.afterFetchRow1 := by
  rw [OnlyMovesAndCounts.runWord_of_transfer_ipc (d := .memory) (by decide) hl hs (by decide) (by decide)
    (by decide), lowLevel_drivenPulse_of_reference (s := { s with pc := s.pc + 1 }) hl]
  rfl

/-- Only the last GPR decides Z, and F comes through. -/
theorem recomputeZ_recomputeZ (g g' : Word) (flg : FlagBits) :
    recomputeZ g (recomputeZ g' flg) = recomputeZ g flg := flags_ext (by simp) (by simp)

/-- The three fetch pulses together make the state that the meanings of the instructions start from. -/
theorem fetchPulses_eq_fetched (s : State) :
    (idlePulse s.afterFetchRow0.afterFetchRow1 wordExtract).extractOpcode = s.fetched (s.mem.read s.pc) := by
  have hflg : recomputeZ (s.mem.read s.pc) (recomputeZ s.gpr (recomputeZ s.gpr s.flg)) =
      recomputeZ (s.mem.read s.pc) s.flg := by simp only [recomputeZ_recomputeZ]
  rw [State.fetched, ← hflg, BitVec.setWidth_eq]
  rfl

/-- Three steps from a boundary of the reference machine fetch the word at PC (R205, R225). -/
theorem run_fetch {s : State} (hr : OnReference s) (hs : s.halted = false) (hb : AtBoundary s) :
    Host.Core.run Sys2Proof.core 3 s = .next (s.fetched (s.mem.read s.pc)) := by
  obtain ⟨hcfg, hc⟩ := hr
  have hl : s.cfg.layout = referenceLayout := by rw [hcfg]; rfl
  have h1 : rowAt s.cfg 1 = some (lineTMGpr ||| lineIpc) := by rw [hcfg]; rfl
  have h2 : rowAt s.cfg 2 = some wordExtract := by rw [hcfg]; rfl
  have step1 : step s.afterFetchRow0 = .next s.afterFetchRow0.afterFetchRow1 :=
    (step_of_row (s := s.afterFetchRow0) hc hs (nextRow_of_fetch (by decide : (1#4).toNat < 3)) h1).trans
      (runWord_fetchRow1 hl hs)
  have step2 : step s.afterFetchRow0.afterFetchRow1 = .next (s.fetched (s.mem.read s.pc)) := by
    rw [← fetchPulses_eq_fetched]
    exact (step_of_row (s := s.afterFetchRow0.afterFetchRow1) hc hs
      (nextRow_of_fetch (by decide : (2#4).toNat < 3)) h2).trans (runWord_extract hl hs)
  rw [run_succ_of_next (step_of_boundary ⟨hcfg, hc⟩ hs hb), run_succ_of_next step1, run_succ_of_next step2]
  rfl

/-- Settles O54: the fields of the fetched state. -/
theorem threePulsesFetchTheInstruction : Obligations.ThreePulsesFetchTheInstruction :=
  fun s hr hs hb => ⟨_, run_fetch hr hs hb, rfl, rfl, rfl, rfl, BitVec.setWidth_eq s.pc, rfl, rfl, rfl, hs, rfl⟩

end Sys2Proof.Machine

namespace Sys2Proof.Machine

/-! ### The fields of a built instruction word (30_encoding.md R84, 46_reference_microprogram.md R242) -/

/-- The operand field of a built instruction word is its operand. -/
theorem setWidth_instructionWord (o : Opcode) (a : Operand) : (instructionWord o a).setWidth 8 = a := by
  ext k hk
  simp [instructionWord]

/-- The opcode field of a built instruction word is its opcode. -/
theorem opcodeField_instructionWord (o : Opcode) (a : Operand) : opcodeField (instructionWord o a) = o := by
  ext k (hk : k < 4)
  simp [opcodeField, instructionWord, show 8 + k < 12 by omega, BitVec.getLsbD_eq_getElem hk]

theorem instructionWord_ne_zero {o : Opcode} (ho : o ≠ 0) (a : Operand) : instructionWord o a ≠ 0 := by
  intro h
  apply ho
  rw [← opcodeField_instructionWord o a, h]
  rfl

/-- The halt encoding is the one whose word can be 0: it is its operand (R226). -/
theorem instructionWord_haltOpcode (a : Operand) : instructionWord 0 a = a.setWidth 12 := BitVec.zero_or

theorem setWidth_eq_zero_iff (a : Operand) : (a.setWidth 12 : Word) = 0 ↔ a = 0 := by
  refine ⟨fun h => ?_, by rintro rfl; rfl⟩
  rw [← setWidth_instructionWord 0 a, instructionWord_haltOpcode, h]
  rfl

/-- The swap of PC into a built instruction word replaces its operand (44_bus_router_ops.md R181). -/
theorem highBits_instructionWord_or (o : Opcode) (a p : Operand) :
    ((instructionWord o a &&& 0xF00) ||| p.setWidth 12 : Word) = instructionWord o p :=
  congrArg (· ||| p.setWidth 12) (Laws.instructionWord_opcode_bits o a)

/-! ### Z where the word that decides it is an instruction word (46_reference_microprogram.md R225) -/

/-- A word that is not 0 clears Z and keeps F. -/
theorem recomputeZ_of_ne_zero {g : Word} (h : g ≠ 0) (flg : FlagBits) : recomputeZ g flg = flg &&& 1 := by
  rw [recomputeZ, if_neg h]
  exact BitVec.or_zero

/-- The Z of an instruction other than HLT, as long as its word is in GPR. -/
theorem recomputeZ_instructionWord {o : Opcode} (ho : o ≠ 0) (a : Operand) (flg : FlagBits) :
    recomputeZ (instructionWord o a) flg = flg &&& 1 :=
  recomputeZ_of_ne_zero (instructionWord_ne_zero ho a) flg

/-- Z at the end of a row that leaves the fetched word in GPR. -/
theorem recomputeZ_instructionWord_twice {o : Opcode} (ho : o ≠ 0) (a : Operand) (flg : FlagBits) :
    recomputeZ (instructionWord o a) (recomputeZ (instructionWord o a) flg) = flg &&& 1 := by
  rw [recomputeZ_recomputeZ, recomputeZ_instructionWord ho]

theorem flagF_and_one (flg : FlagBits) : flagF (flg &&& 1) = flagF flg := by
  revert flg; decide

theorem clearF_and_one (flg : FlagBits) : clearF (flg &&& 1) = 0 := by
  revert flg; decide

theorem complementF_and_one (flg : FlagBits) : complementF (flg &&& 1) = if flagF flg then 0 else 1 := by
  revert flg; decide

theorem rotateLeftFlg_and_one (acc : Word) (flg : FlagBits) :
    rotateLeftFlg acc (flg &&& 1) = if acc.getLsbD 11 then 1 else 0 := by
  unfold rotateLeftFlg
  generalize acc.getLsbD 11 = b
  revert flg b; decide

theorem rotateRightFlg_and_one (acc : Word) (flg : FlagBits) :
    rotateRightFlg acc (flg &&& 1) = if acc.getLsbD 0 then 1 else 0 := by
  unfold rotateRightFlg
  generalize acc.getLsbD 0 = b
  revert flg b; decide

/-- A skip after the fetch's increment, modulo the width of PC (R233, R239). -/
theorem pc_add_one_add_one (p : PcValue) : p + 1 + 1 = p + 2 := BitVec.add_assoc p 1 1

/-! ### An instruction is its fetch and its rows, pulse by pulse (log entry 11) -/

theorem runInstruction_of_running {s : State} (hs : s.halted = false) (w : Word) (rows : List ControlWord) :
    runInstruction w rows s = runWords rows (s.fetched w) := by
  rw [runInstruction, hs]
  rfl

theorem runWords_cons_of_next {w : ControlWord} {ws : List ControlWord} {s t : State}
    {o : Host.Outcome State Fault Refusal} (h : runWord w s = .next t) (h' : runWords ws t = o) :
    runWords (w :: ws) s = o :=
  (runWords_cons_next h).trans h'

theorem runWords_singleton_of_next {w : ControlWord} {s t : State} (h : runWord w s = .next t) :
    runWords [w] s = .next t :=
  runWords_cons_of_next h rfl

/-- An instruction with one row after its fetch. -/
theorem runInstruction_singleton_of_next {w : Word} {row : ControlWord} {s t : State} (hs : s.halted = false)
    (h : runWord row (s.fetched w) = .next t) : runInstruction w [row] s = .next t :=
  (runInstruction_of_running hs w _).trans (runWords_singleton_of_next h)

/-! ### The pulses of the microprogram on the reference layout, by the statements about the lines -/

section Lines

variable {s : State} (hl : OnReferenceLayout s) (hs : s.halted = false)

include hl hs

theorem runWord_lineTPcMar :
    runWord lineTPcMar s = .next { drivenPulse s lineTPcMar (s.pc.setWidth 12) with mar := s.pc } := by
  obtain ⟨h, -⟩ := transferLinesMoveOneWord s hl hs
  exact h

theorem runWord_lineTMGpr :
    runWord lineTMGpr s =
      .next { drivenPulse s lineTMGpr (s.mem.read s.mar) with gpr := s.mem.read s.mar } := by
  obtain ⟨-, h, -⟩ := transferLinesMoveOneWord s hl hs
  exact h

theorem runWord_lineTGprMar :
    runWord lineTGprMar s = .next { drivenPulse s lineTGprMar s.gpr with mar := s.gpr.setWidth 8 } := by
  obtain ⟨-, -, h, -⟩ := transferLinesMoveOneWord s hl hs
  exact h

theorem runWord_lineTGprM :
    runWord lineTGprM s = .next { drivenPulse s lineTGprM s.gpr with mem := s.mem.write s.mar s.gpr } := by
  obtain ⟨-, -, -, h, -⟩ := transferLinesMoveOneWord s hl hs
  exact h

theorem runWord_lineTGprPc :
    runWord lineTGprPc s = .next { drivenPulse s lineTGprPc s.gpr with pc := s.gpr.setWidth 8 } := by
  obtain ⟨-, -, -, -, h⟩ := transferLinesMoveOneWord s hl hs
  exact h

theorem runWord_lineIgpr :
    runWord lineIgpr s =
      .next { idlePulse s lineIgpr with gpr := s.gpr + 1, flg := recomputeZ (s.gpr + 1) s.flg } := by
  obtain ⟨-, h, -⟩ := incrementLinesAddOne.1 s hl hs
  exact h

theorem runWord_lineIacc : runWord lineIacc s = .next { idlePulse s lineIacc with acc := s.acc + 1 } := by
  obtain ⟨-, -, h⟩ := incrementLinesAddOne.1 s hl hs
  exact h

theorem runWord_lineIpcF0 :
    runWord lineIpcF0 s = .next { idlePulse s (if flagF s.flg then lineIpcF0 else lineIpcF0 ||| lineIpc) with
      pc := if flagF s.flg then s.pc else s.pc + 1 } := by
  obtain ⟨h, -⟩ := conditionalIncrementsTestTheFlags s hl hs
  refine h.trans ?_
  change Host.Outcome.next (if flagF s.flg then _ else _) = _
  cases flagF s.flg <;> rfl

theorem runWord_lineIpcZ1 :
    runWord lineIpcZ1 s = .next { idlePulse s (if flagZ s.flg then lineIpcZ1 ||| lineIpc else lineIpcZ1) with
      pc := if flagZ s.flg then s.pc + 1 else s.pc } := by
  obtain ⟨-, h⟩ := conditionalIncrementsTestTheFlags s hl hs
  refine h.trans ?_
  change Host.Outcome.next (if flagZ s.flg then _ else _) = _
  cases flagZ s.flg <;> rfl

/-- The last row of CSR stores GPR while PC counts (46_reference_microprogram.md R232). -/
theorem runWord_lineTGprM_or_lineIpc :
    runWord (lineTGprM ||| lineIpc) s = .next { drivenPulse s (lineTGprM ||| lineIpc) s.gpr with
      pc := s.pc + 1, mem := s.mem.write s.mar s.gpr } := by
  rw [OnlyMovesAndCounts.runWord_of_transfer_ipc (d := .reg .gpr) (by decide) hl hs (by decide) (by decide)
    (by decide), lowLevel_drivenPulse_of_reference (s := { s with pc := s.pc + 1 }) hl]
  rfl

end Lines

/-! ### HLT (46_reference_microprogram.md R226) -/

/-- Settles O53: the fetched state, then a halt that writes CW and HALTED only. -/
theorem hltHaltsAfterItsFetch : Obligations.HltHaltsAfterItsFetch := by
  intro a s hl hs
  have hz : recomputeZ (instructionWord 0 a) s.flg = (s.flg &&& 1) ||| (if a = 0 then 2 else 0) := by
    simp only [recomputeZ, instructionWord_haltOpcode, setWidth_eq_zero_iff]
  exact ⟨_, runInstruction_singleton_of_next hs (runWord_lineHalt hl hs), rfl, rfl, instructionWord_haltOpcode a,
    BitVec.setWidth_eq s.pc, opcodeField_instructionWord 0 a, rfl, rfl, rfl, hz, rfl, rfl⟩

/-! ### The instructions with one row that drives nothing (46_reference_microprogram.md R234 to R241) -/

/-- The state after the fetch of an instruction other than HLT and one pulse with the word `w` that drives
nothing: its word is still in GPR, so Z is 0. -/
def State.afterFetchAndIdle (s : State) (o : Opcode) (a : Operand) (w : ControlWord) : State :=
  { s with
    pc := s.pc + 1
    gpr := instructionWord o a
    mar := s.pc
    flg := s.flg &&& 1
    opr := o
    step := 4
    cw := w
    bus := Config.busDraw (s.draws + 1)
    sum := s.acc + instructionWord o a
    draws := s.draws + 2 }

theorem idlePulse_fetched {o : Opcode} (ho : o ≠ 0) (s : State) (a : Operand) (w : ControlWord) :
    idlePulse (s.fetched (instructionWord o a)) w = s.afterFetchAndIdle o a w := by
  rw [State.afterFetchAndIdle, ← recomputeZ_instructionWord_twice ho a s.flg]
  simp only [idlePulse, drivenPulse, State.fetched, opcodeField_instructionWord, BitVec.setWidth_eq]
  rfl

/-- An instruction whose one row is the line of an ALU operation. -/
theorem runInstruction_aluLine {s : State} (hl : OnReferenceLayout s) (hs : s.halted = false) {o : Opcode}
    (ho : o ≠ 0) (a : Operand) (op : AluOp) :
    runInstruction (instructionWord o a) [aluMask referenceLayout op] s =
      .next ((s.afterFetchAndIdle o a (aluMask referenceLayout op)).applyAlu op) := by
  rw [← idlePulse_fetched ho]
  exact runInstruction_singleton_of_next hs (runWord_aluLine (s := s.fetched (instructionWord o a)) hl hs op)

/-- Settles O50: CRA and CTA are the lines of their operations, ITA that of the ACC increment. -/
theorem accumulatorInstructions : Obligations.AccumulatorInstructions := by
  intro a s hl hs
  have hita := runInstruction_singleton_of_next hs
    (runWord_lineIacc (s := s.fetched (instructionWord 10 a)) hl hs)
  rw [idlePulse_fetched (by decide)] at hita
  exact ⟨⟨_, runInstruction_aluLine hl hs (by decide) a .cla,
      rfl, rfl, rfl, rfl, rfl, rfl, rfl, rfl, hs, rfl, rfl⟩,
    ⟨_, runInstruction_aluLine hl hs (by decide) a .cma,
      rfl, rfl, rfl, rfl, rfl, rfl, rfl, rfl, hs, rfl, rfl⟩,
    ⟨_, hita, rfl, rfl, rfl, rfl, rfl, rfl, rfl, rfl, hs, rfl, rfl⟩⟩

/-- Settles O51: CRF and CTF are the lines of their operations, SFZ that of the PC increment if F is 0. -/
theorem flagInstructions : Obligations.FlagInstructions := by
  intro a s hl hs
  have hsfz := runInstruction_singleton_of_next hs
    (runWord_lineIpcF0 (s := s.fetched (instructionWord 13 a)) hl hs)
  rw [fetched_flg, flagF_recomputeZ, idlePulse_fetched (by decide)] at hsfz
  have hpc : (if flagF s.flg then s.pc + 1 else s.pc + 1 + 1) = if flagF s.flg then s.pc + 1 else s.pc + 2 := by
    rw [pc_add_one_add_one]
  exact ⟨⟨_, runInstruction_aluLine hl hs (by decide) a .clf,
      clearF_and_one s.flg, rfl, rfl, rfl, rfl, rfl, rfl, rfl, hs, rfl, rfl⟩,
    ⟨_, runInstruction_aluLine hl hs (by decide) a .cmf,
      complementF_and_one s.flg, rfl, rfl, rfl, rfl, rfl, rfl, rfl, hs, rfl, rfl⟩,
    ⟨_, hsfz, hpc, rfl, rfl, rfl, rfl, rfl, rfl, rfl, hs, rfl, rfl⟩⟩

/-- Settles O52: each is the line of its rotation, on ACC and the F that the fetch keeps. -/
theorem rotateInstructions : Obligations.RotateInstructions := by
  intro a s hl hs
  obtain ⟨high, othersRight⟩ := rotateRightAcc_bits s.acc (s.flg &&& 1)
  obtain ⟨low, othersLeft⟩ := rotateLeftAcc_bits s.acc (s.flg &&& 1)
  exact ⟨⟨_, runInstruction_aluLine hl hs (by decide) a .ror,
      othersRight, high.trans (flagF_and_one s.flg), rotateRightFlg_and_one s.acc s.flg,
      rfl, rfl, rfl, rfl, rfl, rfl, hs, rfl, rfl⟩,
    ⟨_, runInstruction_aluLine hl hs (by decide) a .rol,
      othersLeft, low.trans (flagF_and_one s.flg), rotateLeftFlg_and_one s.acc s.flg,
      rfl, rfl, rfl, rfl, rfl, rfl, hs, rfl, rfl⟩⟩

end Sys2Proof.Machine

namespace Sys2Proof.Machine

/-! ### The rows that read a word through GPR, the additions and the jumps (46_reference_microprogram.md R227, R228,
R230, R231) -/

/-- MAR is the low byte of GPR, and GPR the word there; Z is still that of the address word. -/
def State.indirect (s : State) : State :=
  { s with
    mar := s.gpr.setWidth 8
    gpr := s.mem.read (s.gpr.setWidth 8)
    flg := recomputeZ s.gpr s.flg
    step := s.step + 1 + 1
    cw := lineTMGpr
    bus := s.mem.read (s.gpr.setWidth 8)
    sum := s.acc + s.gpr }

theorem runWords_indirect {s : State} (hl : OnReferenceLayout s) (hs : s.halted = false)
    (rows : List ControlWord) :
    runWords (lineTGprMar :: lineTMGpr :: rows) s = runWords rows s.indirect := by
  rw [State.indirect, ← recomputeZ_recomputeZ s.gpr s.gpr s.flg]
  exact runWords_cons_of_next (runWord_lineTGprMar hl hs)
    (runWords_cons_next (runWord_lineTMGpr (s := { drivenPulse s lineTGprMar s.gpr with
      mar := s.gpr.setWidth 8 }) hl hs))

/-- The state after the fetch of an instruction and the read of the word at its operand. -/
def State.afterOperandRead (s : State) (o : Opcode) (a : Operand) : State :=
  { s with
    pc := s.pc + 1
    gpr := s.mem.read a
    mar := a
    flg := recomputeZ (instructionWord o a) s.flg
    opr := o
    step := 5
    cw := lineTMGpr
    bus := s.mem.read a
    sum := s.acc + instructionWord o a
    draws := s.draws + 1 }

theorem fetched_indirect (s : State) (o : Opcode) (a : Operand) :
    (s.fetched (instructionWord o a)).indirect = s.afterOperandRead o a := by
  rw [State.afterOperandRead, ← recomputeZ_recomputeZ (instructionWord o a) (instructionWord o a) s.flg]
  simp only [State.indirect, State.fetched, opcodeField_instructionWord, setWidth_instructionWord]
  rfl

/-- An instruction whose first two rows read the word at its operand. -/
theorem runInstruction_operandRead {s : State} (hl : OnReferenceLayout s) (hs : s.halted = false) (o : Opcode)
    (a : Operand) (rows : List ControlWord) :
    runInstruction (instructionWord o a) (lineTGprMar :: lineTMGpr :: rows) s =
      runWords rows (s.afterOperandRead o a) := by
  rw [runInstruction_of_running hs, ← fetched_indirect]
  exact runWords_indirect (s := s.fetched (instructionWord o a)) hl hs rows

theorem runWords_lineAdd {s : State} (hl : OnReferenceLayout s) (hs : s.halted = false) :
    runWords [lineAdd] s = .next { idlePulse s lineAdd with acc := s.acc + s.gpr } :=
  runWords_singleton_of_next (runWord_aluLine hl hs .add)

/-- Settles O44: the read of the operand, and the sum with it. -/
theorem addAddsAMemoryWord : Obligations.AddAddsAMemoryWord := by
  intro a s hl hs
  have hexec := (runInstruction_operandRead hl hs 1 a [lineAdd]).trans
    (runWords_lineAdd (s := s.afterOperandRead 1 a) hl hs)
  exact ⟨_, hexec, rfl, rfl, rfl, rfl, rfl, rfl, rfl, recomputeZ_recomputeZ _ _ s.flg, hs, rfl, rfl⟩

/-- Settles O45: the read of the pointer, that of the word it points to, and the sum with it. -/
theorem addiAddsThroughAPointer : Obligations.AddiAddsThroughAPointer := by
  intro a s hl hs p
  have hexec := (runInstruction_operandRead hl hs 2 a [lineTGprMar, lineTMGpr, lineAdd]).trans
    ((runWords_indirect (s := s.afterOperandRead 2 a) hl hs [lineAdd]).trans
      (runWords_lineAdd (s := (s.afterOperandRead 2 a).indirect) hl hs))
  have hflg : recomputeZ (s.mem.read p)
      (recomputeZ (s.mem.read a) (recomputeZ (instructionWord 2 a) s.flg)) = recomputeZ (s.mem.read p) s.flg := by
    simp only [recomputeZ_recomputeZ]
  exact ⟨_, hexec, rfl, rfl, rfl, rfl, rfl, rfl, rfl, hflg, hs, rfl, rfl⟩

/-- Settles O47: JMP latches its own operand into PC, JMPI the word read at it. -/
theorem jumpsSetThePc : Obligations.JumpsSetThePc := by
  intro a s hl hs
  have hjmp := runInstruction_singleton_of_next hs
    (runWord_lineTGprPc (s := s.fetched (instructionWord 4 a)) hl hs)
  have hjmpi := (runInstruction_operandRead hl hs 5 a [lineTGprPc]).trans
    (runWords_singleton_of_next (runWord_lineTGprPc (s := s.afterOperandRead 5 a) hl hs))
  exact ⟨⟨_, hjmp, setWidth_instructionWord 4 a, rfl, BitVec.setWidth_eq s.pc, rfl,
      opcodeField_instructionWord 4 a, rfl, rfl, recomputeZ_instructionWord_twice (by decide) a s.flg, hs,
      rfl, rfl⟩,
    ⟨_, hjmpi, rfl, rfl, rfl, rfl, rfl, rfl, rfl, recomputeZ_recomputeZ _ _ s.flg, hs, rfl, rfl⟩⟩

/-! ### The instructions that store (46_reference_microprogram.md R229, R232, R233) -/

theorem runWord_lineTGprMar_fetched {s : State} (hl : OnReferenceLayout s) (hs : s.halted = false) (o : Opcode)
    (a : Operand) :
    runWord lineTGprMar (s.fetched (instructionWord o a)) =
      .next { drivenPulse (s.fetched (instructionWord o a)) lineTGprMar (instructionWord o a) with mar := a } := by
  have h := runWord_lineTGprMar (s := s.fetched (instructionWord o a)) hl hs
  rwa [fetched_gpr, setWidth_instructionWord] at h

/-- GPR is ACC and is stored at MAR; Z is that of the word stored. -/
def State.accStored (s : State) : State :=
  { s with
    gpr := s.acc
    mem := s.mem.write s.mar s.acc
    flg := recomputeZ s.acc s.flg
    step := s.step + 1 + 1
    cw := lineTGprM
    bus := s.acc
    sum := s.acc + s.acc
    draws := s.draws + 1 }

theorem runWords_storeAcc {s : State} (hl : OnReferenceLayout s) (hs : s.halted = false) :
    runWords [lineA2g, lineTGprM] s = .next s.accStored := by
  rw [State.accStored, ← recomputeZ_recomputeZ s.acc s.gpr s.flg]
  exact runWords_cons_of_next (runWord_aluLine hl hs .a2g)
    (runWords_singleton_of_next (runWord_lineTGprM hl hs))

/-- Settles O46: MAR is the operand and GPR is ACC when GPR is stored. -/
theorem staStoresTheAccumulator : Obligations.StaStoresTheAccumulator := by
  intro a s hl hs hwf
  have hexec := (runInstruction_of_running hs _ _).trans
    (runWords_cons_of_next (runWord_lineTGprMar_fetched hl hs 3 a) (runWords_storeAcc hl hs))
  have hflg : recomputeZ s.acc (recomputeZ (instructionWord 3 a) (recomputeZ (instructionWord 3 a) s.flg)) =
      recomputeZ s.acc s.flg := by
    simp only [recomputeZ_recomputeZ]
  exact ⟨_, hexec, rfl, rfl, rfl, rfl, opcodeField_instructionWord 3 a, rfl, rfl, hflg, hs, rfl,
    Memory.read_write_self hwf a s.acc, fun b hb => Memory.read_write_of_ne hb s.mem s.acc⟩

/-- The first row of CSR: PC takes the operand, and GPR is the link word, the opcode over the return address. -/
theorem runWord_wordSwap_fetched {s : State} (hl : OnReferenceLayout s) (hs : s.halted = false) {o : Opcode}
    (ho : o ≠ 0) (a : Operand) :
    runWord wordSwap (s.fetched (instructionWord o a)) =
      .next { s.afterFetchAndIdle o a wordSwap with pc := a, gpr := instructionWord o (s.pc + 1) } := by
  have h := runWord_swap (s := s.fetched (instructionWord o a)) hl hs
  rwa [idlePulse_fetched ho, swapPcGpr_eq,
    show (s.afterFetchAndIdle o a wordSwap).gpr = instructionWord o a from rfl,
    show (s.afterFetchAndIdle o a wordSwap).pc = s.pc + 1 from rfl, setWidth_instructionWord,
    highBits_instructionWord_or] at h

/-- Settles O48: the swap makes the link word, which is stored at the operand while PC counts past it. -/
theorem csrCallsThroughALinkWord : Obligations.CsrCallsThroughALinkWord := by
  intro a s hl hs hwf link
  have hexec := (runInstruction_of_running hs _ _).trans
    (runWords_cons_of_next (runWord_wordSwap_fetched hl hs (by decide : (6 : Opcode) ≠ 0) a)
      (runWords_cons_of_next (runWord_lineTPcMar hl hs)
        (runWords_singleton_of_next (runWord_lineTGprM_or_lineIpc hl hs))))
  have hflg : recomputeZ (instructionWord 6 (s.pc + 1)) (recomputeZ (instructionWord 6 (s.pc + 1)) (s.flg &&& 1)) =
      s.flg &&& 1 :=
    (recomputeZ_instructionWord_twice (by decide) _ _).trans (BitVec.and_assoc s.flg 1 1)
  exact ⟨_, hexec, rfl, rfl, rfl, rfl, rfl, rfl, rfl, hflg, hs, rfl,
    Memory.read_write_self hwf a link, fun b hb => Memory.read_write_of_ne hb s.mem link⟩

/-- GPR counts and is stored at MAR; Z is that of the word stored. -/
def State.incrementedAndStored (s : State) : State :=
  { s with
    gpr := s.gpr + 1
    mem := s.mem.write s.mar (s.gpr + 1)
    flg := recomputeZ (s.gpr + 1) s.flg
    step := s.step + 1 + 1
    cw := lineTGprM
    bus := s.gpr + 1
    sum := s.acc + (s.gpr + 1)
    draws := s.draws + 1 }

theorem runWords_incrementAndStore {s : State} (hl : OnReferenceLayout s) (hs : s.halted = false)
    (rows : List ControlWord) :
    runWords (lineIgpr :: lineTGprM :: rows) s = runWords rows s.incrementedAndStored := by
  rw [State.incrementedAndStored, ← recomputeZ_recomputeZ (s.gpr + 1) (s.gpr + 1) s.flg]
  exact runWords_cons_of_next (runWord_lineIgpr hl hs) (runWords_cons_next (runWord_lineTGprM hl hs))

/-- Settles O49: the skip tests the Z of the word that the store wrote. -/
theorem iszIncrementsAndSkips : Obligations.IszIncrementsAndSkips := by
  intro a s hl hs hwf v
  have hlast := runWord_lineIpcZ1 (s := (s.afterOperandRead 7 a).incrementedAndStored) hl hs
  have hz : flagZ (s.afterOperandRead 7 a).incrementedAndStored.flg = decide (v = 0) := flagZ_recomputeZ _ _
  simp only [hz, decide_eq_true_iff] at hlast
  have hexec := (runInstruction_operandRead hl hs 7 a _).trans
    ((runWords_incrementAndStore (s := s.afterOperandRead 7 a) hl hs [lineIpcZ1]).trans
      (runWords_singleton_of_next hlast))
  have hpc : (if v = 0 then s.pc + 1 + 1 else s.pc + 1) = if v = 0 then s.pc + 2 else s.pc + 1 := by
    rw [pc_add_one_add_one]
  have hflg : recomputeZ v (recomputeZ v (recomputeZ (instructionWord 7 a) s.flg)) = recomputeZ v s.flg := by
    simp only [recomputeZ_recomputeZ]
  exact ⟨_, hexec, hpc, rfl, rfl, rfl, rfl, rfl, rfl, hflg, hs, rfl,
    Memory.read_write_self hwf a v, fun b hb => Memory.read_write_of_ne hb s.mem v⟩

end Sys2Proof.Machine

namespace Sys2Proof.Machine

/-! ### Construction and `reset()` (70_reset_and_hazards.md R280 to R282) -/

theorem construct_refused_iff {cfg : Config} {r : Refusal} :
    construct cfg = .refused r ↔ configRefusal cfg = some r := by
  unfold construct
  cases configRefusal cfg <;> simp

theorem construct_of_admitted {cfg : Config} (hc : configRefusal cfg = none) :
    construct cfg = .next (State.constructed cfg) := by
  simp only [construct, hc]

/-- An admitted image fits in memory, word for word. -/
theorem image_of_admitted {c : Config} (hc : configRefusal c = none) :
    c.image.length ≤ 256 ∧ ∀ v ∈ c.image, v < 4096 := by
  obtain ⟨htable, -⟩ := configRefusal_eq_none_iff.1 hc
  simp only [wfTable, Bool.and_eq_true, List.all_eq_true, decide_eq_true_eq] at htable
  obtain ⟨⟨-, hlength⟩, hwords⟩ := htable
  exact ⟨hlength, hwords⟩

/-- A memory laid out from an image reads as the image from its first address on, and as 0 beyond it: an image
word 0 has no cell of its own, and the cells after it lie at higher addresses. -/
theorem toNat_read_ofImageFrom {image : List Nat} {k : Nat} {a : Addr} (hlength : k + image.length ≤ 256)
    (hwords : ∀ v ∈ image, v < 4096) (hk : k ≤ a.toNat) :
    ((Memory.ofImageFrom k image).read a).toNat = image.getD (a.toNat - k) 0 := by
  induction image generalizing k with
  | nil => rfl
  | cons v rest ih =>
    rw [List.length_cons] at hlength
    rw [List.forall_mem_cons] at hwords
    obtain ⟨hv, hrest⟩ := hwords
    have hwf : Memory.wfFrom (k + 1) (Memory.ofImageFrom (k + 1) rest) = true :=
      Memory.ofImageFrom_wfFrom (by omega)
    have hword : (BitVec.ofNat Config.wData v).toNat = v := Nat.mod_eq_of_lt hv
    obtain rfl | hlt := Nat.eq_or_lt_of_le hk
    · rw [Nat.sub_self, List.getD_cons_zero, Memory.ofImageFrom]
      split_ifs with hzero
      · rw [Memory.read_below (Nat.lt_succ_self _) hwf, ← hword, hzero]
      · rw [Memory.read_cons_of_eq rfl, hword]
    · have hread : (Memory.ofImageFrom k (v :: rest)).read a = (Memory.ofImageFrom (k + 1) rest).read a := by
        rw [Memory.ofImageFrom]
        split_ifs
        · rfl
        · exact Memory.read_cons_of_ne hlt.ne _ _
      rw [hread, ih (by omega) hrest hlt, show a.toNat - k = a.toNat - (k + 1) + 1 by omega, List.getD_cons_succ]

/-- Settles O13: the constructed state, and its memory read as the image from address 0. -/
theorem constructionLoadsTheImage : Obligations.ConstructionLoadsTheImage := by
  refine fun cfg => ⟨fun r => construct_refused_iff, fun hc => ?_⟩
  obtain ⟨hlength, hwords⟩ := image_of_admitted hc
  refine ⟨_, construct_of_admitted hc, rfl, rfl, rfl, rfl, rfl, rfl, rfl, rfl, rfl, rfl, fun a => ?_⟩
  exact toNat_read_ofImageFrom (by omega) hwords (Nat.zero_le _)

theorem hostReset_of_halted {s : State} (hs : s.halted = true) : s.hostReset = .refused .resetWhenHalted := by
  simp only [State.hostReset, hs, if_true]

/-- R281: `reset()` of a machine that is not halted. -/
theorem hostReset_of_running {s : State} (hs : s.halted = false) :
    s.hostReset = .next { s with
      pc := 0, gpr := 0, acc := 0, mar := 0, flg := 0, opr := 0, step := 0, cw := 0
      bus := Config.busDraw s.draws, sum := Config.sumDraw s.draws, draws := s.draws + 1 } := by
  rw [State.hostReset, hs, if_neg Bool.false_ne_true]
  rfl

/-- Settles O14: by HALTED, which `reset()` tests first. -/
theorem resetCallZeroesRegistersAndKeepsMemory : Obligations.ResetCallZeroesRegistersAndKeepsMemory :=
  fun _ => ⟨hostReset_of_halted, fun hs =>
    ⟨_, hostReset_of_running hs, rfl, rfl, rfl, rfl, rfl, rfl, rfl, rfl, hs, rfl, rfl⟩⟩

/-! ### The phases of a composite word on the reference layout (40_clock_phases.md R113, R120, R121) -/

/-- What the reference layout's falling edge brings to the ALU under the word `w`: the registers with an increment
line and STEP count, and Z is that of the GPR then. -/
def State.counted (s : State) (w : ControlWord) : State :=
  { s with
    pc := incremented w (.lines lineIpc) s.pc
    gpr := incremented w (.lines lineIgpr) s.gpr
    acc := incremented w (.lines lineIacc) s.acc
    step := s.step + 1
    flg := recomputeZ (incremented w (.lines lineIgpr) s.gpr) s.flg }

theorem deriveZ_incrementLoop_of_reference {s : State} (hl : s.cfg.layout = referenceLayout) :
    (registerOrder.foldl State.incrementIfEnabled s).deriveZ = s.counted s.cw := by
  rw [incrementLoop_eq]
  simp only [State.counted, incremented_eq, hl, referenceLayout]
  simp [incrementEnabled, State.deriveZ, registerIncrement]

/-- What the reference layout's low level makes of a state under the word `w`: PC, GPR and MAR have input lines,
and the store goes to the MAR the latches leave. -/
def State.latched (s : State) (w : ControlWord) : State :=
  let mar' := if intersects w (lineTPcMar ||| lineTGprMar) then s.bus.setWidth 8 else s.mar
  { s with
    pc := if intersects w lineTGprPc then s.bus.setWidth 8 else s.pc
    gpr := if intersects w lineTMGpr then s.bus else s.gpr
    mar := mar'
    mem := if intersects w lineTGprM then s.mem.write mar' s.bus else s.mem }

theorem lowLevel_of_reference {s : State} (hl : s.cfg.layout = referenceLayout) :
    s.lowLevel = s.latched s.cw := by
  rw [State.lowLevel, storeIfEnabled_eq, latchLoop_eq]
  simp [State.latched, hl, referenceLayout]

/-- The ALU performs the requested operations, if that is one at most. -/
theorem aluOperation_of_requestedOps {s : State} {ops : List AluOp}
    (h : requestedOps s.cfg.layout s.cw = ops) (hone : ops.length ≤ 1) :
    s.aluOperation = .ok (ops.foldl State.applyAlu s) := by
  match ops with
  | [] => exact aluOperation_of_unrequested h
  | [_] => exact aluOperation_of_one_request h
  | _ :: _ :: _ => simp at hone

/-- The word asserts no line of the control unit, is none of the router's two combinations and requests the ALU
operations `ops`, one at most: what it can do is transfer, increment, compute and store. -/
abbrev OnlyMovesAndComputes (w : ControlWord) (ops : List AluOp) : Prop :=
  intersects w (lineIpcF0 ||| lineIpcZ1 ||| lineClrSc ||| lineHalt) = false ∧ w ≠ wordSwap ∧ w ≠ wordExtract ∧
    requestedOps referenceLayout w = ops ∧ ops.length ≤ 1

/-- The pulse of such a word in phase order: the bus and the sum, the increments and Z, the ALU operation, and the
latches with the store. -/
theorem OnlyMovesAndComputes.runWord_eq {w : ControlWord} {ops : List AluOp} {s h : State}
    (hw : OnlyMovesAndComputes w ops) (hl : s.cfg.layout = referenceLayout) (hs : s.halted = false)
    (hhigh : State.highLevel { s with cw := w } = .ok h) :
    runWord w s = .next ((ops.foldl State.applyAlu (h.counted w)).latched w) := by
  obtain ⟨hlines, hswap, hextract, hops, hone⟩ := hw
  obtain ⟨hcfg, hcw⟩ := highLevel_keeps hhigh
  have hlayout : h.cfg.layout = referenceLayout := by rw [hcfg, hl]
  have hcounted : (registerOrder.foldl State.incrementIfEnabled h).deriveZ = h.counted w := by
    rw [deriveZ_incrementLoop_of_reference hlayout, hcw]
  have halu : (h.counted w).aluOperation = .ok (ops.foldl State.applyAlu (h.counted w)) :=
    aluOperation_of_requestedOps
      (by rw [show (h.counted w).cfg.layout = _ from hlayout, show (h.counted w).cw = w from hcw, hops]) hone
  generalize ops.foldl State.applyAlu (h.counted w) = u at halu ⊢
  have hucw : u.cw = w := by rw [aluOperation_keeps halu]; exact hcw
  have hulayout : u.cfg.layout = referenceLayout := by rw [aluOperation_keeps halu]; exact hlayout
  have hroute : u.route = u :=
    route_of_other (by rw [hucw, hulayout]; exact hswap) (by rw [hucw, hulayout]; exact hextract)
  rw [runWord_of_no_control_line hl hs hlines,
    laterPhases_of_phases hhigh (fallingEdge_of_aluOperation (hcounted ▸ halu)), hroute,
    lowLevel_of_reference hulayout, hucw]

theorem OnlyMovesAndComputes.runWord_of_driver {w : ControlWord} {ops : List AluOp} {s : State} {d : BusSource}
    (hw : OnlyMovesAndComputes w ops) (hl : s.cfg.layout = referenceLayout) (hs : s.halted = false)
    (hd : drivers referenceLayout w = [d]) :
    runWord w s = .next ((ops.foldl State.applyAlu
      (State.counted { s with cw := w, bus := s.driven d, sum := s.acc + s.gpr } w)).latched w) := by
  rw [hw.runWord_eq hl hs (highLevel_of_driver (s := { s with cw := w }) (hl ▸ hd)), driven_withCw]
  rfl

theorem OnlyMovesAndComputes.runWord_of_undriven {w : ControlWord} {ops : List AluOp} {s : State}
    (hw : OnlyMovesAndComputes w ops) (hl : s.cfg.layout = referenceLayout) (hs : s.halted = false)
    (hd : drivers referenceLayout w = []) :
    runWord w s = .next ((ops.foldl State.applyAlu (State.counted { s with
      cw := w, bus := Config.busDraw s.draws, draws := s.draws + 1, sum := s.acc + s.gpr } w)).latched w) :=
  hw.runWord_eq hl hs (highLevel_of_undriven (s := { s with cw := w }) (hl ▸ hd))

/-! ### Words that enable two drivers or request two ALU operations (log entry 12) -/

theorem runWord_of_two_drivers {w : ControlWord} {s : State} (hl : s.cfg.layout = referenceLayout)
    (hs : s.halted = false)
    (hlines : intersects w (lineIpcF0 ||| lineIpcZ1 ||| lineClrSc ||| lineHalt) = false)
    (hd : 2 ≤ (drivers referenceLayout w).length) : runWord w s = .refused .wfOneDriver := by
  have hhigh : State.highLevel { s with cw := w } = .error .wfOneDriver := highLevel_of_two_drivers (hl ▸ hd)
  rw [runWord_of_no_control_line hl hs hlines]
  simp only [State.laterPhases, hhigh]

theorem aluOperation_of_two_requests {s : State} (h : 2 ≤ (requestedOps s.cfg.layout s.cw).length) :
    s.aluOperation = .error .wfOneAluOp := by
  unfold State.aluOperation
  split
  next hops => simp [hops] at h
  next hops => simp [hops] at h
  next => rfl

/-- A word that drives nothing passes the high level, so that its two ALU operations are what is refused. -/
theorem runWord_of_two_requests {w : ControlWord} {s : State} (hl : s.cfg.layout = referenceLayout)
    (hs : s.halted = false)
    (hlines : intersects w (lineIpcF0 ||| lineIpcZ1 ||| lineClrSc ||| lineHalt) = false)
    (hd : drivers referenceLayout w = []) (hops : 2 ≤ (requestedOps referenceLayout w).length) :
    runWord w s = .refused .wfOneAluOp := by
  have hhigh := highLevel_of_undriven (s := { s with cw := w }) (hl ▸ hd)
  rw [runWord_of_no_control_line hl hs hlines]
  simp only [State.laterPhases, hhigh, State.fallingEdge]
  rw [aluOperation_of_two_requests (by simpa [hl] using hops)]

/-! ### The swap with a line more, and half of it (44_bus_router_ops.md R183) -/

theorem runWord_wordSwap_or_lineIpc {s : State} (hl : s.cfg.layout = referenceLayout) (hs : s.halted = false) :
    runWord (wordSwap ||| lineIpc) s = .next { idlePulse s (wordSwap ||| lineIpc) with pc := s.pc + 1 } := by
  have hcond (f z : Bool) :
      conditionalIncrements referenceLayout f z (wordSwap ||| lineIpc) = wordSwap ||| lineIpc := by
    revert f z; decide
  exact runWord_of_effective hl hs (hcond _ _) (by decide) (by decide)

theorem runWord_lineXPc2g {s : State} (hl : s.cfg.layout = referenceLayout) (hs : s.halted = false) :
    runWord lineXPc2g s = .next (idlePulse s lineXPc2g) := by
  have hcfg : (idlePulse s lineXPc2g).cfg.layout = referenceLayout := hl
  rw [OnlyRoutes.runWord_eq (by decide) hl hs]
  exact congrArg _ (route_of_other (hcfg ▸ (by decide : lineXPc2g ≠ wordSwap))
    (hcfg ▸ (by decide : lineXPc2g ≠ wordExtract)))

/-- Settles O41. Seven of the words only move and compute: each is run by its driver and its ALU operation, in phase
order. The second word is that of the second fetch row. -/
theorem compositeWordsFollowThePhaseOrder : Obligations.CompositeWordsFollowThePhaseOrder := by
  intro s hl hs
  have driven (w : ControlWord) (d : BusSource) (ops : List AluOp) (hw : OnlyMovesAndComputes w ops)
      (hd : drivers referenceLayout w = [d]) := hw.runWord_of_driver hl hs hd
  have undriven (w : ControlWord) (ops : List AluOp) (hw : OnlyMovesAndComputes w ops)
      (hd : drivers referenceLayout w = []) := hw.runWord_of_undriven hl hs hd
  refine ⟨?pcOut, runWord_fetchRow1 hl hs,
    driven 0x000030 (.reg .gpr) [] (by decide) (by decide),
    driven 0x00000C (.reg .gpr) [] (by decide) (by decide),
    driven 0x000048 (.reg .gpr) [] (by decide) (by decide),
    undriven 0x000240 [.add] (by decide) (by decide),
    driven 0x000202 .memory [.add] (by decide) (by decide),
    undriven 0x000280 [.add] (by decide) (by decide),
    runWord_wordSwap_or_lineIpc hl hs, runWord_lineXPc2g hl hs,
    runWord_of_two_requests hl hs (by decide) (by decide) (by decide),
    runWord_of_two_drivers hl hs (by decide) (by decide)⟩
  case pcOut =>
    have h : runWord 0x000021 s = .next { drivenPulse s 0x000021 (s.pc.setWidth 12) with
        mar := (s.pc.setWidth 12).setWidth 8, pc := s.pc + 1 } :=
      driven 0x000021 (.reg .pc) [] (by decide) (by decide)
    rwa [BitVec.setWidth_setWidth_of_le _ (by decide), BitVec.setWidth_eq] at h

end Sys2Proof.Machine

namespace Sys2Proof.Machine

/-! ### Opcode and operand make the instruction word (30_encoding.md R84) -/

theorem toNat_opcodeField (w : Word) : (opcodeField w).toNat = w.toNat / 256 := by
  have hw : w.toNat < 4096 := w.isLt
  rw [opcodeField, BitVec.extractLsb'_toNat, Nat.shiftRight_eq_div_pow]
  exact Nat.mod_eq_of_lt (show w.toNat / 256 < 16 by omega)

theorem toNat_operandField (w : Word) : (operandField w).toNat = w.toNat % 256 := BitVec.toNat_setWidth 8 w

theorem instructionWord_fields (w : Word) : instructionWord (opcodeField w) (operandField w) = w := by
  ext k hk
  simp only [instructionWord, opcodeField, operandField, BitVec.getElem_or, BitVec.getElem_shiftLeft,
    BitVec.getElem_setWidth]
  interval_cases k <;> simp [BitVec.getLsbD_eq_getElem]

/-- Settles O5: the fields of a built word, and the word of its fields. -/
theorem instructionWordFields : Obligations.InstructionWordFields :=
  fun o a w => ⟨rfl, opcodeField_instructionWord o a, setWidth_instructionWord o a, instructionWord_fields w,
    toNat_opcodeField w, toNat_operandField w⟩

/-! ### Decoding and encoding, format by format (30_encoding.md sections 1, 2, 3, 4) -/

/-- A control word is decoded by the table's row with that word. -/
theorem exists_row_of_decodeControlWord {w : ControlWord} {i : Instr} (h : decodeControlWord w = .ok i) :
    ∃ r ∈ controlTable, r.pattern = w ∧ r.instr = i := by
  unfold decodeControlWord at h
  split at h
  next r hr =>
    cases h
    have hw := List.find?_some hr
    exact ⟨r, List.mem_of_find?_eq_some hr, (beq_iff_eq.1 hw).symm, rfl⟩
  next => cases h

/-- The instructions of the table of control words are well formed and encoded by their rows' words. -/
theorem wf_encode_of_mem_controlTable :
    ∀ r ∈ controlTable, r.instr.wf = true ∧ encode r.instr = some (.cw r.pattern) := by decide

/-- An index is decoded to a well-formed class with that index: a fetch row, a row of an opcode's window, or a
row of the halt window. -/
theorem wf_encode_of_decodeIndex {n : RowIndex} {i : Instr} (h : decodeIndex n = .ok i) :
    i.wf = true ∧ encode i = some (.ix n) := by
  unfold decodeIndex at h
  dsimp only at h
  split_ifs at h with hfetch hopcode hslot <;> cases h
  · revert n; decide
  · revert n; decide
  · revert n; decide

/-- An instruction word is decoded by its opcode, and its operand is carried over. -/
theorem decodeInstructionWord_instructionWord (o : Opcode) (a : Operand) :
    decodeInstructionWord (instructionWord o a) = opcodeTable.getD o.toNat .hlt a := by
  rw [decodeInstructionWord, opcodeField_instructionWord, show operandField _ = a from setWidth_instructionWord o a]

/-- The instructions of the table of opcodes are well formed and encoded by their opcodes. -/
theorem wf_encode_opcodeTable (o : Opcode) (a : Operand) :
    (opcodeTable.getD o.toNat .hlt a).wf = true ∧
      encode (opcodeTable.getD o.toNat .hlt a) = some (.iw (instructionWord o a)) := by
  obtain ⟨⟨n, hn⟩⟩ := o
  change n < 16 at hn
  interval_cases n <;> exact ⟨rfl, rfl⟩

theorem wf_encode_decodeInstructionWord (w : Word) :
    (decodeInstructionWord w).wf = true ∧ encode (decodeInstructionWord w) = some (.iw w) := by
  obtain ⟨o, a, rfl⟩ : ∃ o a, w = instructionWord o a := ⟨_, _, (instructionWord_fields w).symm⟩
  rw [decodeInstructionWord_instructionWord]
  exact wf_encode_opcodeTable o a

/-- Settles O3, format by format. -/
theorem encodeOfDecodeIsTheWord : Obligations.EncodeOfDecodeIsTheWord := by
  intro e i h
  cases e with
  | cw w =>
    obtain ⟨r, hr, rfl, rfl⟩ := exists_row_of_decodeControlWord h
    exact wf_encode_of_mem_controlTable r hr
  | ix n => exact wf_encode_of_decodeIndex h
  | iw w =>
    cases h
    exact wf_encode_decodeInstructionWord w

/-- A word of the index format is decoded to the well-formed class it is the index of. -/
theorem decodeIndex_of_encode {i : Instr} {n : RowIndex} (hwf : i.wf = true) (h : encode i = some (.ix n)) :
    decodeIndex n = .ok i := by
  cases i
  case ixFetch step => cases h; revert step; decide
  case ixExec opcode slot => cases h; revert opcode slot; decide
  case ixExecHalt slot => cases h; revert slot; decide
  all_goals cases h

/-- A control word is decoded to the instruction it is the word of. -/
theorem decodeControlWord_of_encode {i : Instr} {w : ControlWord} (h : encode i = some (.cw w)) :
    decodeControlWord w = .ok i := by
  cases i <;> cases h <;> rfl

theorem decodeInstructionWord_of_encode {i : Instr} {w : Word} (h : encode i = some (.iw w)) :
    decodeInstructionWord w = i := by
  cases i <;> cases h <;> exact decodeInstructionWord_instructionWord _ _

/-- Settles O2: the one instruction without a word, and the round trip format by format. -/
theorem decodeOfEncodeIsTheInstruction : Obligations.DecodeOfEncodeIsTheInstruction := by
  refine fun i => ⟨by cases i <;> simp [encode], fun hwf e h => ?_⟩
  cases e with
  | cw w => exact decodeControlWord_of_encode h
  | ix n => exact decodeIndex_of_encode hwf h
  | iw w => exact congrArg Except.ok (decodeInstructionWord_of_encode h)

/-- Settles O1: the decoder evaluated on twelve words of the three formats. -/
theorem tableWordsDecodeToTheirRows : Obligations.TableWordsDecodeToTheirRows :=
  ⟨rfl, rfl, rfl, rfl, rfl, rfl, rfl, rfl, rfl, rfl, rfl, rfl⟩

/-! ### The rows a control word asserts (30_encoding.md R82, R95) -/

/-- No two rows of the table are of one instruction, so that a row is asserted by its own test. -/
theorem mem_assertedRows_iff {r : ControlRow} (hr : r ∈ controlTable) (w : ControlWord) :
    r.instr ∈ assertedRows w ↔ w &&& r.mask = r.pattern := by
  have hnodup : (controlTable.map (·.instr)).Nodup := by decide
  simp only [assertedRows, List.mem_map, List.mem_filter, beq_iff_eq]
  refine ⟨?_, fun h => ⟨r, ⟨hr, h⟩, rfl⟩⟩
  rintro ⟨r', ⟨hr', h⟩, hinstr⟩
  rwa [List.inj_on_of_nodup_map hnodup hr' hr hinstr] at h

/-- The three whole words have the full mask; every other row is that of one bit. -/
theorem controlTable_masks :
    ∀ r ∈ controlTable,
      if r.instr = .swap ∨ r.instr = .extract ∨ r.instr = .nopWord then r.mask = BitVec.allOnes 24
      else r.mask = r.pattern ∧ ∃ k : Fin 24, r.pattern = BitVec.twoPow 24 k := by decide

/-- A word has a bit of one line exactly if it meets the line's mask. -/
theorem and_twoPow_eq_iff (w : ControlWord) (k : Fin 24) :
    w &&& BitVec.twoPow 24 k = BitVec.twoPow 24 k ↔ w &&& BitVec.twoPow 24 k ≠ 0 := by
  have hne : BitVec.twoPow 24 k ≠ 0#24 := by revert k; decide
  rw [BitVec.and_twoPow]
  split <;> simp [hne, hne.symm]

/-- Settles O4: the row with the instruction's word, by equality where its mask is full and by its one bit
otherwise. -/
theorem rowsAreAssertedByTheirTest : Obligations.RowsAreAssertedByTheirTest := by
  intro w p i h
  obtain ⟨r, hr, rfl, rfl⟩ := exists_row_of_decodeControlWord (decodeControlWord_of_encode h)
  have hmask := controlTable_masks r hr
  rw [mem_assertedRows_iff hr]
  split at hmask
  next hword => rw [if_pos hword, hmask, BitVec.and_allOnes]
  next hword =>
    obtain ⟨hmask, k, hk⟩ := hmask
    rw [if_neg hword, hmask, hk, and_twoPow_eq_iff]

/-! ### The meaning of an instruction, by its format (log entries 9, 10, 11) -/

/-- The instruction of a control word is the pulse of that word. -/
theorem exec_of_encode_cw {i : Instr} {w : ControlWord} (h : encode i = some (.cw w)) (s : State) :
    exec i s = runWord w s := by
  cases i <;> cases h <;> rfl

/-- The one instruction without a word has no successor (45_sequencer.md R196). -/
theorem exec_of_encode_none {i : Instr} (h : encode i = none) (s : State) :
    exec i s = .fault .windowOverrun := by
  cases i <;> cases h
  rfl

/-- The index of the row looked up next is that of the selected class. -/
theorem encode_selectIndex {s : State} {n : Nat} (h : s.nextRow = some n) :
    encode s.selectIndex = some (.ix (BitVec.ofNat 7 n)) := by
  have hexec : ∀ (o : Opcode) (k : Slot), (o.setWidth 7 <<< 3 ||| k.setWidth 7 : RowIndex) =
      BitVec.ofNat 7 (o.toNat <<< 3 ||| k.toNat) := by decide
  have hhalt : ∀ k : Slot, (4#7 ||| k.setWidth 7 : RowIndex) = BitVec.ofNat 7 (4 ||| k.toNat) := by decide
  unfold State.nextRow at h
  split at h <;> cases h
  next step e => rw [e, BitVec.ofNat_toNat]; rfl
  next opcode slot e => rw [e, ← hexec]; rfl
  next slot e => rw [e, ← hhalt]; rfl

/-- The class that STEP and OPR select is one the hardware can produce. -/
theorem selectIndex_wf (s : State) : s.selectIndex.wf = true := by
  have hfetch : ∀ c : StepCount, c ≤ Config.lastFetchStep → (Instr.ixFetch (c.setWidth 2)).wf = true := by decide
  unfold State.selectIndex
  split_ifs with hstep hlast hopr
  · exact hfetch s.step hstep
  · exact slotBesideHaltBit_wf _
  · exact bne_iff_ne.2 hopr
  · rfl

/-- Settles O8: the selected class is the one the looked-up row's index decodes to, and the instruction a control
word decodes to is the pulse of that word. -/
theorem stepRunsTheDecodedInstruction : Obligations.StepRunsTheDecodedInstruction := by
  rintro s ⟨hc, hs⟩
  refine ⟨step_of_running hc hs, selectIndex_wf s, fun n hn => ?_, fun n w hn hw => ?_⟩
  · have hencode := encode_selectIndex hn
    exact ⟨hencode, decodeIndex_of_encode (selectIndex_wf s) hencode⟩
  · have hstep := step_of_row hc hs hn hw
    refine ⟨hstep, fun i hi => ?_⟩
    obtain ⟨-, hencode⟩ := encodeOfDecodeIsTheWord (.cw w) i hi
    rw [hstep, exec_of_encode_cw hencode]

end Sys2Proof.Machine

namespace Sys2Proof.Machine

/-! ### The rows of an instruction after its fetch (46_reference_microprogram.md R226 to R241) -/

/-- The control word of a row of the reference table; the image does not matter. -/
def referenceRow (i : Nat) : ControlWord := (rowAt (referenceConfig []) i).getD 0

/-- The words of `n` slots of an opcode's window, from slot `k` on. -/
def windowRows (o : Opcode) (k n : Nat) : List ControlWord :=
  (List.range' k n).map fun j => referenceRow (8 * o.toNat + j)

/-- The rows that an instruction with this opcode runs after its fetch: of opcode 0 the halt row, of any other its
window up to the clear-step row. -/
def executeRows (o : Opcode) : List ControlWord := if o = 0 then [lineHalt] else windowRows o 0 (lastSlot o)

/-- An instruction word's meaning runs the rows of its opcode. -/
theorem exec_of_encode_iw {i : Instr} {w : Word} (h : encode i = some (.iw w)) (s : State) :
    exec i s = runInstruction w (executeRows (opcodeField w)) s := by
  cases i <;> cases h <;> rw [opcodeField_instructionWord] <;> rfl

/-! ### What every pulse and every fetch keeps -/

/-- The four things a meaning can be, by the instruction's format. -/
theorem exec_cases (i : Instr) (s : State) :
    exec i s = .fault .windowOverrun ∨ (∃ w, exec i s = runWord w s) ∨ (∃ n, exec i s = runRow n s) ∨
      ∃ w rows, exec i s = runInstruction w rows s := by
  match h : encode i with
  | none => exact .inl (exec_of_encode_none h s)
  | some (.cw w) => exact .inr (.inl ⟨w, exec_of_encode_cw h s⟩)
  | some (.ix n) => exact .inr (.inr (.inl ⟨n.toNat, exec_of_encode_ix h s⟩))
  | some (.iw w) => exact .inr (.inr (.inr ⟨w, _, exec_of_encode_iw h s⟩))

/-- A row's pulse is the identity on a halted machine, or the pulse of the row's word. -/
theorem runRow_next_cases {n : Nat} {s t : State} (e : runRow n s = .next t) :
    t = s ∨ ∃ w, runWord w s = .next t := by
  unfold runRow at e
  split at e
  · cases e; exact .inl rfl
  · split at e
    · cases e
    · exact .inr ⟨_, e⟩

section Invariant

variable {P : State → Prop} (hpulse : ∀ w s t, P s → runWord w s = .next t → P t)

include hpulse

theorem step_keeps {s t : State} (hs : P s) (e : step s = .next t) : P t := by
  obtain ⟨-, rfl⟩ | ⟨_, w, -, -, hw⟩ := step_next_cases e
  · exact hs
  · exact hpulse w s t hs hw

theorem runWords_keeps {ws : List ControlWord} {s t : State} (hs : P s) (e : runWords ws s = .next t) : P t := by
  induction ws generalizing s with
  | nil => cases e; exact hs
  | cons w ws ih =>
    unfold runWords at e
    split at e
    next u hu => exact ih (hpulse w s u hs hu) e
    all_goals cases e

/-- What every pulse and the net effect of every fetch keep, every instruction keeps. -/
theorem exec_keeps (hfetch : ∀ w s, P s → P (s.fetched w)) {i : Instr} {s t : State} (hs : P s)
    (e : exec i s = .next t) : P t := by
  obtain h | ⟨w, h⟩ | ⟨n, h⟩ | ⟨w, rows, h⟩ := exec_cases i s <;> rw [h] at e
  · cases e
  · exact hpulse w s t hs e
  · obtain rfl | ⟨w, hw⟩ := runRow_next_cases e
    · exact hs
    · exact hpulse w s t hs hw
  · unfold runInstruction at e
    split at e
    · cases e; exact hs
    · exact runWords_keeps hpulse (hfetch w s hs) e

end Invariant

/-- Settles O27: no pulse writes the configuration. -/
theorem theConfigurationNeverChanges : Obligations.TheConfigurationNeverChanges :=
  ⟨fun _ _ => step_keeps_cfg, fun _ s _ => exec_keeps (P := fun u => u.cfg = s.cfg)
    (fun _ _ _ hu e => (runWord_keeps_cfg e).trans hu) (fun _ _ hu => hu) rfl⟩

/-! ### Memory over pulses and instructions (20_memory.md section 2) -/

/-- A pulse leaves memory as it is or, if the published word asserts the memory's input line, stores its bus value
at its MAR. -/
theorem runWord_mem_cases {w : ControlWord} {s t : State} (e : runWord w s = .next t) :
    t.mem = s.mem ∨
      intersects t.cw s.cfg.layout.memIn = true ∧ t.mem = s.mem.write t.mar t.bus := by
  obtain ⟨-, rfl⟩ | ⟨-, r, hr, ⟨-, rfl⟩ | ⟨-, h, f, hhigh, hfall, rfl⟩⟩ := runWord_next_cases e
  · exact .inl rfl
  · rw [risingEdge_keeps hr]; exact .inl rfl
  have hhmem : h.mem = s.mem := by
    obtain ⟨-, rfl⟩ | ⟨_, -, rfl⟩ := highLevel_ok_cases hhigh <;> rw [risingEdge_keeps hr]
  obtain ⟨-, -, -, hfmem, -⟩ := fallingEdge_keeps hfall
  obtain ⟨hcfg, hcw, -, hbus, -⟩ := lowLevel_keeps f
  rw [← runWord_keeps_cfg e, lowLevel_mem, hcfg, hcw, hbus, hfmem, hhmem]
  split
  next hin => exact .inr ⟨hin, rfl⟩
  next => exact .inl rfl

theorem runWord_keeps_wf (w : ControlWord) (s t : State) (hwf : s.mem.wf = true) (e : runWord w s = .next t) :
    t.mem.wf = true := by
  obtain h | ⟨-, h⟩ := runWord_mem_cases e <;> rw [h]
  · exact hwf
  · exact Memory.write_wf hwf _ _

/-- Settles O20: a pulse stores at most one word, and a store keeps the form. -/
theorem everyStepKeepsMemoryCanonical : Obligations.EveryStepKeepsMemoryCanonical :=
  ⟨fun _ _ => step_keeps (P := fun u => u.mem.wf = true) runWord_keeps_wf,
    fun _ _ _ => exec_keeps (P := fun u => u.mem.wf = true) runWord_keeps_wf fun _ _ h => h⟩

/-- Settles O18, by whether the address read is the one written. -/
theorem readAfterWrite : Obligations.ReadAfterWrite := by
  intro m a b v hm
  split_ifs with hb
  · rw [hb, Memory.read_write_self hm]
  · exact Memory.read_write_of_ne hb m v

/-- Settles O31: the line is one write at MAR. -/
theorem storeLineWritesOneWord : Obligations.StoreLineWritesOneWord := by
  intro s t hl hs hwf e
  cases (runWord_lineTGprM hl hs).symm.trans e
  exact ⟨Memory.read_write_self hwf s.mar s.gpr, fun a ha => Memory.read_write_of_ne ha s.mem s.gpr⟩

/-! ### A canonical memory is determined by its reads (20_memory.md section 1) -/

/-- The first cell of a canonical memory lies no lower than those of a memory that reads alike, for it is read at
its address, and as another word than 0. -/
theorem Memory.le_of_read_eq {lo k j : Nat} {x : Word} {rest n : Memory}
    (hm : Memory.wfFrom lo ((k, x) :: rest) = true) (hn : Memory.wfFrom j n = true)
    (heq : ∀ a, Memory.read ((k, x) :: rest) a = n.read a) : j ≤ k := by
  obtain ⟨-, hk, hx, -⟩ := Memory.wfFrom_cons.1 hm
  have haddr : (BitVec.ofNat 8 k).toNat = k := Nat.mod_eq_of_lt hk
  have hread := heq (BitVec.ofNat 8 k)
  rw [Memory.read_cons_of_eq haddr.symm] at hread
  by_contra hlt
  exact hx (hread.trans (Memory.read_below (by omega) hn))

/-- No cell of a canonical memory is read as 0 everywhere. -/
theorem Memory.ne_nil_of_read_eq {lo k : Nat} {x : Word} {rest : Memory}
    (hm : Memory.wfFrom lo ((k, x) :: rest) = true) :
    ¬ ∀ a, Memory.read ((k, x) :: rest) a = Memory.read [] a := by
  intro heq
  obtain ⟨-, hk, -⟩ := Memory.wfFrom_cons.1 hm
  have := Memory.le_of_read_eq (j := 256) hm rfl heq
  omega

/-- Canonical memories that read alike have the same first cell, and then rests that read alike. -/
theorem Memory.eq_of_read_eq {lo : Nat} {m n : Memory} (hm : Memory.wfFrom lo m = true)
    (hn : Memory.wfFrom lo n = true) (heq : ∀ a : Addr, m.read a = n.read a) : m = n := by
  induction m generalizing lo n with
  | nil =>
    cases n with
    | nil => rfl
    | cons c rest => exact absurd (fun a => (heq a).symm) (Memory.ne_nil_of_read_eq hn)
  | cons c rest ih =>
    obtain ⟨k, x⟩ := c
    cases n with
    | nil => exact absurd heq (Memory.ne_nil_of_read_eq hm)
    | cons d rest' =>
      obtain ⟨j, y⟩ := d
      obtain ⟨-, hk, hx, hrest⟩ := Memory.wfFrom_cons.1 hm
      obtain ⟨-, hj, hy, hrest'⟩ := Memory.wfFrom_cons.1 hn
      have hjk : j ≤ k := Memory.le_of_read_eq hm (Memory.wfFrom_cons.2 ⟨le_rfl, hj, hy, hrest'⟩) heq
      have hkj : k ≤ j :=
        Memory.le_of_read_eq hn (Memory.wfFrom_cons.2 ⟨le_rfl, hk, hx, hrest⟩) fun a => (heq a).symm
      obtain rfl := Nat.le_antisymm hjk hkj
      have haddr : j = (BitVec.ofNat 8 j).toNat := (Nat.mod_eq_of_lt hk).symm
      have hxy := heq (BitVec.ofNat 8 j)
      rw [Memory.read_cons_of_eq haddr, Memory.read_cons_of_eq haddr] at hxy
      have hrests : ∀ a : Addr, Memory.read rest a = Memory.read rest' a := by
        intro a
        obtain hlow | hhigh := Nat.lt_or_ge j a.toNat
        · have h := heq a
          rwa [Memory.read_cons_of_ne hlow.ne, Memory.read_cons_of_ne hlow.ne] at h
        · rw [Memory.read_below (by omega) hrest, Memory.read_below (by omega) hrest']
      rw [hxy, ih hrest hrest' hrests]

/-- Settles O19: the canonical form from address 0 on. -/
theorem canonicalMemoriesAreEqualByReads : Obligations.CanonicalMemoriesAreEqualByReads :=
  fun _ _ => Memory.eq_of_read_eq

/-! ### What the machine is after construction and after `reset()` (70_reset_and_hazards.md R280, R281) -/

theorem constructed_of_construct {cfg : Config} {s : State} (e : construct cfg = .next s) :
    configRefusal cfg = none ∧ s = State.constructed cfg := by
  cases hc : configRefusal cfg with
  | some r => rw [construct_refused_iff.2 hc] at e; cases e
  | none =>
    rw [construct_of_admitted hc] at e
    cases e
    exact ⟨rfl, rfl⟩

/-- Settles O21: construction lays the image out in canonical form. -/
theorem constructionGivesCanonicalMemory : Obligations.ConstructionGivesCanonicalMemory := by
  refine ⟨rfl, fun cfg s e => ?_⟩
  obtain ⟨hc, rfl⟩ := constructed_of_construct e
  obtain ⟨hlength, -⟩ := image_of_admitted hc
  exact Memory.ofImageFrom_wfFrom (by omega)

/-- The machine is at the start of its first fetch, not halted, with the registers at 0 that the pulse reads. -/
def AtFirstPulse (s : State) : Prop :=
  s.halted = false ∧ s.step = 0 ∧ s.pc = 0 ∧ s.gpr = 0 ∧ s.flg = 0

theorem atFirstPulse_of_construct {cfg : Config} {s : State} (e : construct cfg = .next s) : AtFirstPulse s := by
  obtain ⟨-, rfl⟩ := constructed_of_construct e
  exact ⟨rfl, rfl, rfl, rfl, rfl⟩

/-- `reset()` answers a machine at its first pulse and keeps the configuration. -/
theorem atFirstPulse_of_hostReset {r s : State} (e : r.hostReset = .next s) : AtFirstPulse s ∧ s.cfg = r.cfg := by
  cases hr : r.halted with
  | true => rw [hostReset_of_halted hr] at e; cases e
  | false =>
    rw [hostReset_of_running hr] at e
    cases e
    exact ⟨⟨hr, rfl, rfl, rfl, rfl⟩, rfl⟩

/-- R284: the first fetch pulse publishes `T_PC_MAR`, leaves MAR at PC and makes Z 1, since GPR is 0. -/
theorem firstPulse_of_atFirstPulse {s t : State} (hr : OnReference s) (h : AtFirstPulse s)
    (e : step s = .next t) : t.cw = 0x000001 ∧ t.mar = 0 ∧ t.step = 1 ∧ t.flg = 2 := by
  obtain ⟨hs, hstep, hpc, hgpr, hflg⟩ := h
  cases (step_of_boundary hr hs (.inl hstep)).symm.trans e
  refine ⟨rfl, hpc, rfl, ?_⟩
  simp [State.afterFetchRow0, drivenPulse, hgpr, hflg]

/-- Settles O15: both entry points lead to the first pulse. -/
theorem firstPulseAfterResetSetsZ : Obligations.FirstPulseAfterResetSetsZ := by
  refine ⟨fun cfg s t hr e => firstPulse_of_atFirstPulse hr (atFirstPulse_of_construct e), fun r s t hr e => ?_⟩
  obtain ⟨hfirst, hcfg⟩ := atFirstPulse_of_hostReset e
  exact firstPulse_of_atFirstPulse (by rwa [OnReference, hcfg]) hfirst

/-- Any machine at STEP 0 is within its window. -/
theorem withinWindow_of_atFirstPulse {s : State} (h : AtFirstPulse s) : WithinWindow s := by
  obtain ⟨-, hstep, -⟩ := h
  refine .inr ?_
  rw [hstep]
  exact Nat.zero_le _

/-! ### The reference configuration is admitted (46_reference_microprogram.md R224) -/

/-- The checks of drivers and of ALU operations do not depend on the image. -/
theorem reference_wfOneDriver_wfOneAluOp (image : List Nat) :
    wfOneDriver (referenceConfig image) = true ∧ wfOneAluOp (referenceConfig image) = true := by
  change wfOneDriver (referenceConfig []) = true ∧ wfOneAluOp (referenceConfig []) = true
  decide

theorem wfTable_iff {c : Config} :
    wfTable c = true ↔ c.ucode.length = 128 ∧ (∀ v ∈ c.ucode, v < 2 ^ 24) ∧ c.image.length ≤ 256 ∧
      ∀ v ∈ c.image, v < 4096 := by
  simp only [wfTable, Bool.and_eq_true, beq_iff_eq, List.all_eq_true, decide_eq_true_eq, and_assoc]
  rfl

theorem reference_wfTable_iff (image : List Nat) :
    wfTable (referenceConfig image) = true ↔ image.length ≤ 256 ∧ ∀ v ∈ image, v < 4096 := by
  have hrows : ∀ v ∈ (referenceConfig image).ucode, v < 2 ^ 24 :=
    List.forall_mem_append.2 ⟨by decide, by decide⟩
  rw [wfTable_iff]
  exact ⟨fun ⟨_, _, himage⟩ => himage, fun himage => ⟨rfl, hrows, himage⟩⟩

/-- Every effective word of the reference table that latches the bus drives it. -/
theorem reference_drivesWhatItLatches (image : List Nat) : DrivesWhatItLatches (referenceConfig image) := by
  have hall : (effectiveWords (referenceConfig [])).all
      (fun w => !latchesBus referenceLayout w || !(drivers referenceLayout w).isEmpty) = true := by decide
  intro w hw hlatch hd
  have h := List.all_eq_true.1 hall w hw
  rw [show latchesBus referenceLayout w = true from hlatch, show drivers referenceLayout w = [] from hd] at h
  cases h

/-- Settles O59: the table passes its checks, so that the image decides. -/
theorem theReferenceTableIsWellFormed : Obligations.TheReferenceTableIsWellFormed := by
  refine fun image => ⟨?_, reference_drivesWhatItLatches image⟩
  rw [configRefusal_eq_none_iff, reference_wfTable_iff]
  exact and_iff_left (reference_wfOneDriver_wfOneAluOp image)

theorem reference_admitted_of_empty_image : configRefusal (referenceConfig []) = none := by
  obtain ⟨hadmitted, -⟩ := theReferenceTableIsWellFormed []
  exact hadmitted.2 ⟨Nat.zero_le _, by simp⟩

theorem construct_reference_empty_image : construct (referenceConfig []) = .next State.reset :=
  construct_of_admitted reference_admitted_of_empty_image

/-- Settles O16: the constructed machine with an empty image. -/
theorem resetStateIsAllZero : Obligations.ResetStateIsAllZero :=
  ⟨rfl, fun _ => rfl, construct_reference_empty_image⟩

/-- Settles O57: each of them is at its first pulse. -/
theorem resetStatesAreWithinTheWindow : Obligations.ResetStatesAreWithinTheWindow := by
  refine ⟨⟨rfl, reference_admitted_of_empty_image⟩,
    withinWindow_of_atFirstPulse (atFirstPulse_of_construct construct_reference_empty_image),
    fun _ _ e => withinWindow_of_atFirstPulse (atFirstPulse_of_construct e), fun r s e => ?_⟩
  obtain ⟨hfirst, -⟩ := atFirstPulse_of_hostReset e
  exact withinWindow_of_atFirstPulse hfirst

end Sys2Proof.Machine

namespace Sys2Proof.Machine

/-! ### The pulse of an admitted machine completes wherever a row is looked up (00_scope.md R9, R12) -/

theorem exists_step_next_of_nextRow {s : State} {n : Nat} (hc : configRefusal s.cfg = none)
    (hs : s.halted = false) (hn : s.nextRow = some n) : ∃ t, step s = .next t := by
  obtain ⟨hlt, -⟩ := step_opr_of_nextRow hn
  obtain ⟨w, hw⟩ := exists_rowAt_of_admitted hc hlt
  obtain ⟨w0, h0⟩ := exists_rowAt_of_admitted hc (i := 0) (by decide)
  obtain ⟨r, hr, -⟩ := exists_risingEdge s w h0
  obtain ⟨t, e, -⟩ := exists_next_of_effectiveWord hc hs hr (risingEdge_cw_mem_effectiveWords hw hr)
  exact ⟨t, (step_of_row hc hs hn hw).trans e⟩

theorem step_ne_refused_of_admitted {s : State} (hc : configRefusal s.cfg = none) (r : Refusal) :
    step s ≠ .refused r := by
  intro e
  cases hs : s.halted with
  | true => rw [step_of_halted hc hs] at e; cases e
  | false =>
    cases hn : s.nextRow with
    | none => rw [step_of_running hc hs, exec_selectIndex_of_no_row hn] at e; cases e
    | some n =>
      obtain ⟨t, ht⟩ := exists_step_next_of_nextRow hc hs hn
      rw [ht] at e; cases e

/-- Settles O11: the checks come first, and past them nothing is refused. -/
theorem onlyIllFormedConfigurationsAreRefused : Obligations.OnlyIllFormedConfigurationsAreRefused := by
  refine fun s r => ⟨fun e => ?_, step_of_refusal⟩
  cases hc : configRefusal s.cfg with
  | none => exact absurd e (step_ne_refused_of_admitted hc r)
  | some r' => rw [step_of_refusal hc] at e; cases e; rfl

/-! ### One row of a table replaced (00_scope.md R9) -/

theorem mem_effectiveWords_iff {c : Config} {x : ControlWord} :
    x ∈ effectiveWords c ↔
      rowAt c 0 = some x ∨ ∃ u ∈ c.ucode, x ∈ effectiveOfRow c.layout (BitVec.ofNat 24 u) := by
  rw [effectiveWords, List.mem_append, Option.mem_toList, List.mem_flatMap]

/-- The configuration with row `n` of its table replaced. -/
def replaceRow (c : Config) (n v : Nat) : Config := { c with ucode := c.ucode.set n v }

/-- What row `n` of a table can publish if it is `w`: what it adds to `EFF`, and itself if it is row 0. -/
def publishedByRow (l : Layout) (n : Nat) (w : ControlWord) : List ControlWord :=
  if w &&& l.clr ≠ 0 then (if n = 0 then [w] else [])
  else if w &&& l.ipcF0 ≠ 0 ∨ w &&& l.ipcZ1 ≠ 0 then [w, w ||| l.ipc] else [w]

theorem mem_publishedByRow_iff {l : Layout} {n : Nat} {w x : ControlWord} :
    x ∈ publishedByRow l n w ↔ x ∈ effectiveOfRow l w ∨ (n = 0 ∧ x = w) := by
  simp only [publishedByRow, effectiveOfRow, Bool.or_eq_true, intersects_eq_true_iff]
  split_ifs with hclr hn hcond
  · simp [hn]
  · simp [hn]
  · simpa using fun _ => Or.inl
  · simp

section ReplacedRow

variable {c : Config} {n v : Nat}

theorem wfTable_replaceRow_iff (hc : wfTable c = true) (hn : n < 128) :
    wfTable (replaceRow c n v) = true ↔ v < 2 ^ 24 := by
  rw [wfTable_iff] at hc ⊢
  obtain ⟨hlength, hrows, himage⟩ := hc
  refine ⟨fun ⟨_, hrows', _⟩ => hrows' v (List.mem_set (hlength ▸ hn) v), fun hv => ?_⟩
  refine ⟨(List.length_set ..).trans hlength, fun u hu => ?_, himage⟩
  obtain hu | rfl := List.mem_or_eq_of_mem_set hu
  · exact hrows u hu
  · exact hv

theorem rowAt_replaceRow_self (hn : n < c.ucode.length) (hv : v < 2 ^ 24) :
    rowAt (replaceRow c n v) n = some (BitVec.ofNat 24 v) := by
  have hv' : v < 16777216 := hv
  simp [rowAt, replaceRow, hn, hv']

theorem rowAt_replaceRow_of_ne {i : Nat} (h : n ≠ i) : rowAt (replaceRow c n v) i = rowAt c i := by
  simp [rowAt, replaceRow, List.getElem?_set_ne h]

/-- The effective words of a table with one row replaced pass a check exactly if the words that the row can publish
do, where those of the table pass it. -/
theorem forall_effectiveWords_replaceRow_iff {p : ControlWord → Prop} (hlength : n < c.ucode.length)
    (hv : v < 2 ^ 24) (hp : ∀ x ∈ effectiveWords c, p x) :
    (∀ x ∈ effectiveWords (replaceRow c n v), p x) ↔
      ∀ x ∈ publishedByRow c.layout n (BitVec.ofNat 24 v), p x := by
  refine ⟨fun h x hx => h x (mem_effectiveWords_iff.2 ?_), fun h x hx => ?_⟩
  · obtain hx | ⟨rfl, rfl⟩ := mem_publishedByRow_iff.1 hx
    · exact .inr ⟨v, List.mem_set hlength v, hx⟩
    · exact .inl (rowAt_replaceRow_self hlength hv)
  · obtain h0 | ⟨u, hu, hx⟩ := mem_effectiveWords_iff.1 hx
    · by_cases hn : n = 0
      · subst hn
        rw [rowAt_replaceRow_self hlength hv] at h0
        cases h0
        exact h _ (mem_publishedByRow_iff.2 (.inr ⟨rfl, rfl⟩))
      · rw [rowAt_replaceRow_of_ne hn] at h0
        exact hp x (mem_effectiveWords_iff.2 (.inl h0))
    · obtain hu | rfl := List.mem_or_eq_of_mem_set hu
      · exact hp x (mem_effectiveWords_iff.2 (.inr ⟨u, hu, hx⟩))
      · exact h x (mem_publishedByRow_iff.2 (.inl hx))

end ReplacedRow

theorem wfOneDriver_iff {c : Config} :
    wfOneDriver c = true ↔ ∀ x ∈ effectiveWords c, (drivers c.layout x).length ≤ 1 := by
  simp only [wfOneDriver, oneDriver, List.all_eq_true, decide_eq_true_eq]

theorem wfOneAluOp_iff {c : Config} :
    wfOneAluOp c = true ↔ ∀ x ∈ effectiveWords c, (requestedOps c.layout x).length ≤ 1 := by
  simp only [wfOneAluOp, oneAluOp, List.all_eq_true, decide_eq_true_eq]

/-- The first check that fails names the refusal (log entry 12). -/
theorem configRefusal_wfTable {c : Config} (h : ¬ wfTable c = true) : configRefusal c = some .wfTable := by
  simp [configRefusal, h]

theorem configRefusal_wfOneDriver {c : Config} (h : wfTable c = true) (h' : ¬ wfOneDriver c = true) :
    configRefusal c = some .wfOneDriver := by
  simp [configRefusal, h, h']

theorem configRefusal_wfOneAluOp {c : Config} (h : wfTable c = true) (h' : wfOneDriver c = true)
    (h'' : ¬ wfOneAluOp c = true) : configRefusal c = some .wfOneAluOp := by
  simp [configRefusal, h, h', h'']

/-- Settles O17: the table check by its four conditions, and each of the other two by what the row can publish. -/
theorem badRowsAreRefusedByName : Obligations.BadRowsAreRefusedByName := by
  refine ⟨fun c h => construct_refused_iff.2 (configRefusal_wfTable fun hwf => ?_), fun c n v hc hn => ?_⟩
  · obtain ⟨hlength, -, himage, hwords⟩ := wfTable_iff.1 hwf
    obtain h | h | ⟨u, hu, h⟩ := h
    · exact h hlength
    · omega
    · exact absurd (hwords u hu) (not_lt.2 h)
  · obtain ⟨htable, hdriver, halu⟩ := configRefusal_eq_none_iff.1 hc
    obtain ⟨hlength, -⟩ := wfTable_iff.1 htable
    have htable' : wfTable (replaceRow c n v) = true ↔ v < 2 ^ 24 := wfTable_replaceRow_iff htable hn
    have hdriver' (hv : v < 2 ^ 24) :=
      wfOneDriver_iff.trans (forall_effectiveWords_replaceRow_iff (hlength ▸ hn) hv (wfOneDriver_iff.1 hdriver))
    have halu' (hv : v < 2 ^ 24) :=
      wfOneAluOp_iff.trans (forall_effectiveWords_replaceRow_iff (hlength ▸ hn) hv (wfOneAluOp_iff.1 halu))
    refine ⟨fun hv => ?_, fun hv ⟨x, hx, h⟩ => ?_, fun hv hone ⟨x, hx, h⟩ => ?_, fun hv hone => ?_⟩
    · exact construct_refused_iff.2 (configRefusal_wfTable fun hwf => not_lt.2 hv (htable'.1 hwf))
    · refine construct_refused_iff.2 (configRefusal_wfOneDriver (htable'.2 hv) fun hwf => ?_)
      exact not_lt.2 ((hdriver' hv).1 hwf x hx) h
    · refine construct_refused_iff.2
        (configRefusal_wfOneAluOp (htable'.2 hv) ((hdriver' hv).2 hone) fun hwf => ?_)
      exact not_lt.2 ((halu' hv).1 hwf x hx) h
    · have hdrivers := (hdriver' hv).2 fun x hx => (hone x hx).1
      have hops := (halu' hv).2 fun x hx => (hone x hx).2
      exact ⟨_, construct_of_admitted (configRefusal_eq_none_iff.2 ⟨htable'.2 hv, hdrivers, hops⟩)⟩

/-! ### The high level of a completed pulse (40_clock_phases.md R116 to R119) -/

/-- BUS, SUM and the count of draws are those of the high level, which starts from the registers as they stood but for
STEP; for every configuration. -/
theorem exists_highLevel_of_step {s t : State} (hs : s.halted = false) (e : step s = .next t)
    (ht : t.halted = false) :
    ∃ (c : StepCount) (h : State), State.highLevel { s with cw := t.cw, step := c } = .ok h ∧
      t.bus = h.bus ∧ t.sum = h.sum ∧ t.draws = h.draws := by
  obtain ⟨hx, -⟩ | ⟨_, w, -, -, hrun⟩ := step_next_cases e
  · rw [hs] at hx; cases hx
  obtain ⟨hx, -⟩ | ⟨-, r, hr, ⟨hx, rfl⟩ | ⟨hrhalted, h, f, hhigh, hfall, rfl⟩⟩ := runWord_next_cases hrun
  · rw [hs] at hx; cases hx
  · rw [ht] at hx; cases hx
  obtain ⟨-, hcw, -, hbus, hsum, hdraws⟩ := lowLevel_keeps f
  obtain ⟨-, hcw', -, -, hbus', hsum', hdraws'⟩ := fallingEdge_keeps hfall
  have hpublished : f.lowLevel.cw = r.cw := by rw [hcw, hcw', (highLevel_keeps hhigh).2]
  have hr' : r = { s with cw := f.lowLevel.cw, step := r.step } := by
    have hkeeps := risingEdge_keeps hr
    rwa [hrhalted, ← hs, ← hpublished] at hkeeps
  exact ⟨r.step, h, hr' ▸ hhigh, hbus.trans hbus', hsum.trans hsum', hdraws.trans hdraws'⟩

/-- No source but STEP depends on what the rising edge writes. -/
theorem driven_of_ne_step (s : State) (w : ControlWord) (c : StepCount) {d : BusSource} (hd : d ≠ .reg .step) :
    State.driven { s with cw := w, step := c } d = s.driven d := by
  cases d with
  | memory => rfl
  | reg r =>
    cases r
    case step => exact absurd rfl hd
    all_goals rfl

/-- Settles O25: the two ways the high level can go. -/
theorem highLevelDrivesBusAndSum : Obligations.HighLevelDrivesBusAndSum := by
  rintro s t ⟨-, hs⟩ e ht
  obtain ⟨c, h, hhigh, hbus, hsum, hdraws⟩ := exists_highLevel_of_step hs e ht
  rw [hbus, hsum, hdraws]
  obtain ⟨hd, rfl⟩ | ⟨d, hd, rfl⟩ := highLevel_ok_cases hhigh
  · exact ⟨.inr ⟨hd, rfl, rfl⟩, BitVec.toNat_add s.acc s.gpr⟩
  · exact ⟨.inl ⟨d, hd, rfl, driven_of_ne_step s t.cw c⟩, BitVec.toNat_add s.acc s.gpr⟩

/-! ### BUS and SUM are written before they are read (10_state.md R34, R35) -/

/-- The high level overwrites both, and with the same draw. -/
theorem highLevel_withBusAndSum (s : State) (b m : Word) :
    (s.withHidden b m s.draws).highLevel = s.highLevel := by
  unfold State.highLevel
  rw [withHidden_cfg, withHidden_cw]
  split
  · rfl
  · rw [driven_withHidden]; rfl
  · rfl

theorem laterPhases_withBusAndSum (s : State) (b m : Word) :
    (s.withHidden b m s.draws).laterPhases = s.laterPhases := by
  rw [State.laterPhases, highLevel_withBusAndSum, State.laterPhases]

/-- Equal states, or halted ones that differ in BUS and SUM alone. -/
def SameOrHaltedButBusAndSum (s t : State) : Prop :=
  s.halted = t.halted ∧ (s.halted = false → s = t) ∧ t = { s with bus := t.bus, sum := t.sum }

theorem sameOrHaltedButBusAndSum_of_halted {s : State} (hs : s.halted = true) (b m : Word) :
    SameOrHaltedButBusAndSum s (s.withHidden b m s.draws) :=
  ⟨rfl, fun h => absurd (hs.symm.trans h) (by decide), rfl⟩

theorem outcomesAgree_refl (o : Host.Outcome State Fault Refusal) : OutcomesAgree SameOrHaltedButBusAndSum o o := by
  cases o with
  | next s => exact ⟨rfl, fun _ => rfl, rfl⟩
  | fault f => rfl
  | refused r => rfl

/-- A pulse that does not halt goes on from its high level, which forgets the two; one that halts ends before it. -/
theorem runWord_withBusAndSum {s : State} (hs : s.halted = false) (w : ControlWord) (b m : Word) :
    OutcomesAgree SameOrHaltedButBusAndSum (runWord w s) (runWord w (s.withHidden b m s.draws)) := by
  unfold runWord
  rw [risingEdge_withHidden, withHidden_halted, hs]
  cases hr : s.risingEdge w with
  | none => exact outcomesAgree_refl _
  | some r =>
    have hdraws : s.draws = r.draws := by rw [risingEdge_keeps hr]
    rw [Option.map_some, hdraws]
    dsimp only
    rw [withHidden_halted, laterPhases_withBusAndSum]
    cases hhalted : r.halted with
    | true => exact sameOrHaltedButBusAndSum_of_halted hhalted b m
    | false => exact outcomesAgree_refl _

theorem runRow_withBusAndSum {s : State} (hs : s.halted = false) (n : Nat) (b m : Word) :
    OutcomesAgree SameOrHaltedButBusAndSum (runRow n s) (runRow n (s.withHidden b m s.draws)) := by
  cases hw : rowAt s.cfg n with
  | some w =>
    rw [runRow_of_row hw, runRow_of_row (s := s.withHidden b m s.draws) hw]
    exact runWord_withBusAndSum hs w b m
  | none =>
    simp only [runRow, withHidden_halted, withHidden_cfg, hs, hw]
    exact outcomesAgree_refl _

/-- Settles O26: the checks and the choice of a row do not see BUS and SUM, and the row's pulse forgets them. -/
theorem busAndSumCarryNothing : Obligations.BusAndSumCarryNothing := by
  intro s b m hs
  change OutcomesAgree SameOrHaltedButBusAndSum (step s) (step (s.withHidden b m s.draws))
  cases hc : configRefusal s.cfg with
  | some r =>
    rw [step_of_refusal hc, step_of_refusal (s := s.withHidden b m s.draws) hc]
    exact outcomesAgree_refl _
  | none =>
    rw [step_of_running hc hs, step_of_running (s := s.withHidden b m s.draws) hc hs]
    cases hn : s.nextRow with
    | none =>
      rw [exec_selectIndex_of_no_row hn, exec_selectIndex_of_no_row (s := s.withHidden b m s.draws) hn]
      exact outcomesAgree_refl _
    | some n =>
      rw [exec_selectIndex_of_row hn, exec_selectIndex_of_row (s := s.withHidden b m s.draws) hn]
      exact runRow_withBusAndSum hs n b m

/-! ### The registers of the reference layout change only by their lines (45_sequencer.md R206) -/

/-- A word without the lines of a mask asserts none of them. -/
theorem and_eq_zero_of_subset {w M m : ControlWord} (h : w &&& M = 0) (hm : M &&& m = m) : w &&& m = 0 := by
  rw [← hm, ← BitVec.and_assoc, h]
  exact BitVec.zero_and

/-- A register whose increment lines the word does not assert does not count. -/
theorem incremented_of_unasserted {n : Nat} {w m : ControlWord} (h : w &&& m = 0) (v : BitVec n) :
    incremented w (.lines m) v = v := if_neg (not_not.2 h)

theorem flagF_of_unwritten {i u : State} (hu : i.deriveZ.aluOperation = .ok u)
    (hin : u.cw &&& u.cfg.layout.flg.input = 0) (hops : ∀ op ∈ flagOps, u.cw &&& aluMask u.cfg.layout op = 0) :
    flagF u.route.lowLevel.flg = flagF i.flg := by
  obtain ⟨-, -, -, -, latch, -⟩ := lowLevel_route_unlatched u
  obtain ⟨-, -, route, -⟩ := route_others u
  rw [aluOperation_keeps hu] at hops
  rw [latch hin, route, aluOperation_keeps_flg hu hops, deriveZ_flg, flagF_recomputeZ]

/-- The lines of the operations on ACC in the reference layout are the five of 0xD600. -/
theorem accOps_unrequested_of_reference {w : ControlWord} (h : w &&& 0x00D600 = 0) :
    ∀ op ∈ accOps, w &&& aluMask referenceLayout op = 0 := by
  have hmask : ∀ op ∈ accOps, 0x00D600 &&& aluMask referenceLayout op = aluMask referenceLayout op := by decide
  exact fun op hop => and_eq_zero_of_subset h (hmask op hop)

/-- R125: the pulse of a halted machine is the identity. -/
theorem runWord_of_halted {s : State} (hs : s.halted = true) (w : ControlWord) : runWord w s = .next s := by
  rw [runWord, if_pos hs]

/-- A machine that has not halted after a pulse had not halted before it. -/
theorem running_of_runWord {w : ControlWord} {s t : State} (e : runWord w s = .next t)
    (ht : t.halted = false) : s.halted = false := by
  rw [← Bool.not_eq_true]
  intro hs
  cases (runWord_of_halted hs w).symm.trans e
  exact Bool.false_ne_true (ht.symm.trans hs)

/-- A pulse of a halted machine and one that halts change CW, HALTED and STEP at most. -/
theorem runWord_keeps_of_halted {w : ControlWord} {s t : State} (e : runWord w s = .next t)
    (ht : t.halted = true) : t = { s with cw := t.cw, step := t.step, halted := t.halted } := by
  cases hs : s.halted with
  | true =>
    cases (runWord_of_halted hs w).symm.trans e
    rfl
  | false =>
    obtain ⟨r, hr, -, -, heq⟩ := published_of_runWord hs e
    obtain rfl := heq ht
    exact risingEdge_keeps hr

/-- What a word without the lines of a register leaves alone, on the reference layout. -/
theorem runWord_keeps_of_unasserted {w : ControlWord} {s t : State} (hl : s.cfg.layout = referenceLayout)
    (e : runWord w s = .next t) :
    (t.cw &&& 0x000030 = 0 → t.cw ≠ wordSwap → t.pc = s.pc) ∧
    (t.cw &&& 0x000142 = 0 → t.cw ≠ wordSwap → t.gpr = s.gpr) ∧
    (t.cw &&& 0x00D680 = 0 → t.acc = s.acc) ∧
    (t.cw &&& 0x000005 = 0 → t.mar = s.mar) ∧
    (t.cw &&& 0x00E800 = 0 → flagF t.flg = flagF s.flg) ∧
    (t.cw ≠ wordExtract → t.opr = s.opr) ∧
    (t.cw &&& lineTGprM = 0 → t.mem = s.mem) := by
  have hmem : t.cw &&& lineTGprM = 0 → t.mem = s.mem := by
    obtain h | ⟨hin, -⟩ := runWord_mem_cases e
    · exact fun _ => h
    · rw [hl] at hin
      exact fun h => absurd h (intersects_eq_true_iff.1 hin)
  cases ht : t.halted with
  | true =>
    rw [runWord_keeps_of_halted e ht]
    exact ⟨fun _ _ => rfl, fun _ _ => rfl, fun _ => rfl, fun _ => rfl, fun _ => rfl, fun _ => rfl, fun _ => rfl⟩
  | false =>
    obtain ⟨r, i, u, -, htr, -, -, -, -, -, hpc, hgpr, hacc, hmar, hflg, hopr, -, hu, hur, hcfg, rfl⟩ :=
      completed_pulse (running_of_runWord e ht) e ht
    rw [← hur] at htr hpc hgpr hacc hmar hflg hopr
    have hlayout : u.cfg.layout = referenceLayout := by rw [hcfg, hl]
    rw [hl] at hpc hgpr hacc hmar hflg hopr
    rw [htr] at hmem ⊢
    refine ⟨fun h hswap => ?_, fun h hswap => ?_, fun h => ?_, fun h => ?_, fun h => ?_, fun hextract => ?_, hmem⟩
    · rw [pc_of_unwritten hu (hlayout ▸ and_eq_zero_of_subset h (by decide)) (hlayout ▸ hswap), hpc]
      exact incremented_of_unasserted (and_eq_zero_of_subset h (by decide)) s.pc
    · rw [gpr_of_unwritten hu (hlayout ▸ and_eq_zero_of_subset h (by decide))
        (hlayout ▸ and_eq_zero_of_subset h (by decide)) (hlayout ▸ hswap), hgpr]
      exact incremented_of_unasserted (and_eq_zero_of_subset h (by decide)) s.gpr
    · rw [acc_of_unwritten hu (hlayout ▸ BitVec.and_zero)
        (hlayout ▸ accOps_unrequested_of_reference (and_eq_zero_of_subset h (by decide))), hacc]
      exact incremented_of_unasserted (and_eq_zero_of_subset h (by decide)) s.acc
    · rw [mar_of_unwritten hu (hlayout ▸ h), hmar]
      exact incremented_of_unasserted BitVec.and_zero s.mar
    · rw [flagF_of_unwritten hu (hlayout ▸ BitVec.and_zero) (hlayout ▸ flagOps_unrequested_of_reference h), hflg]
      exact congrArg flagF (incremented_of_unasserted BitVec.and_zero s.flg)
    · rw [opr_of_unwritten hu (hlayout ▸ BitVec.and_zero) (.inr (hlayout ▸ hextract)), hopr]
      exact incremented_of_unasserted BitVec.and_zero s.opr

/-- Settles O40: what a word without the lines leaves alone, read backwards. -/
theorem registersChangeOnlyByTheirLines : Obligations.RegistersChangeOnlyByTheirLines := by
  intro w s t hl e
  obtain ⟨hpc, hgpr, hacc, hmar, hflg, hopr, hmem⟩ := runWord_keeps_of_unasserted hl e
  refine ⟨fun h => ?_, fun h => ?_, fun h hin => h (hacc hin), fun h hin => h (hmar hin),
    fun h hin => h (hflg hin), fun h => ?_, fun h hin => h (hmem hin)⟩
  · by_contra hlines
    obtain ⟨hlines, hswap⟩ := not_or.1 hlines
    exact h (hpc (not_not.1 hlines) hswap)
  · by_contra hlines
    obtain ⟨hlines, hswap⟩ := not_or.1 hlines
    exact h (hgpr (not_not.1 hlines) hswap)
  · by_contra hextract
    exact h (hopr hextract)

/-! ### The 13-bit pair of a rotation (42_alu_ops.md R160, R161) -/

/-- Bit k of the pair (F, ACC): ACC's own below 12, and F on top. -/
def pairBit (p : Word × FlagBits) (k : Nat) : Bool := if k < 12 then p.1.getLsbD k else flagF p.2

/-- The left rotation of the pair. -/
def turnLeft (p : Word × FlagBits) : Word × FlagBits := (rotateLeftAcc p.1 p.2, rotateLeftFlg p.1 p.2)

theorem pair_ext {p q : Word × FlagBits} (hbits : ∀ k < 13, pairBit p k = pairBit q k)
    (hz : flagZ p.2 = flagZ q.2) : p = q := by
  refine Prod.ext (BitVec.eq_of_getLsbD_eq fun k hk => ?_) (flags_ext ?_ hz)
  · have hk' : k < 12 := hk
    simpa only [pairBit, hk', if_true] using hbits k (by omega)
  · exact hbits 12 (by decide)

/-- Every bit comes from the one below it, and bit 0 from F, which is 12 places up the ring. -/
theorem pairBit_turnLeft (p : Word × FlagBits) {k : Nat} (hk : k < 13) :
    pairBit (turnLeft p) k = pairBit p ((k + 12) % 13) := by
  obtain ⟨low, others⟩ := rotateLeftAcc_bits p.1 p.2
  obtain rfl | hpos := Nat.eq_zero_or_pos k
  · exact low
  have hbelow : (k + 12) % 13 = k - 1 := by omega
  rw [hbelow]
  obtain hacc | rfl : k < 12 ∨ k = 12 := by omega
  · simp only [pairBit, turnLeft, hacc, show k - 1 < 12 by omega, if_true]
    exact others k hpos hacc
  · exact flagF_rotateLeftFlg p.1 p.2

theorem pairBit_iterate_turnLeft (n : Nat) (p : Word × FlagBits) {k : Nat} (hk : k < 13) :
    pairBit (turnLeft^[n] p) k = pairBit p ((k + 12 * n) % 13) := by
  induction n generalizing k with
  | zero => rw [Function.iterate_zero_apply, Nat.mul_zero, Nat.add_zero, Nat.mod_eq_of_lt hk]
  | succ n ih =>
    rw [Function.iterate_succ_apply', pairBit_turnLeft _ hk, ih (Nat.mod_lt _ (by decide))]
    congr 1
    omega

theorem flagZ_iterate_turnLeft (n : Nat) (p : Word × FlagBits) : flagZ (turnLeft^[n] p).2 = flagZ p.2 := by
  induction n with
  | zero => rfl
  | succ n ih => rw [Function.iterate_succ_apply', ← ih]; exact flagZ_rotateLeftFlg _ _

/-- Thirteen turns bring every one of the thirteen bits back. -/
theorem turnLeft_iterate_thirteen (p : Word × FlagBits) : turnLeft^[13] p = p := by
  refine pair_ext (fun k hk => ?_) (flagZ_iterate_turnLeft 13 p)
  rw [pairBit_iterate_turnLeft 13 p hk, show (k + 12 * 13) % 13 = k by omega]

/-- The right rotation takes back what the left one did to ACC: F is the bit that left, and every other moved up. -/
theorem rotateRightAcc_rotateLeft (a : Word) (g : FlagBits) :
    rotateRightAcc (rotateLeftAcc a g) (rotateLeftFlg a g) = a := by
  refine BitVec.eq_of_getLsbD_eq fun k (hk : k < 12) => ?_
  rw [getLsbD_rotateRightAcc _ _ hk]
  split_ifs with hlast
  · rw [flagF_rotateLeftFlg, hlast]
  · rw [getLsbD_rotateLeftAcc _ _ (by omega), if_neg (Nat.succ_ne_zero k), Nat.add_sub_cancel]

/-- The left rotation takes back what the right one did to ACC. -/
theorem rotateLeftAcc_rotateRight (a : Word) (g : FlagBits) :
    rotateLeftAcc (rotateRightAcc a g) (rotateRightFlg a g) = a := by
  refine BitVec.eq_of_getLsbD_eq fun k (hk : k < 12) => ?_
  rw [getLsbD_rotateLeftAcc _ _ hk]
  split_ifs with hfirst
  · rw [flagF_rotateRightFlg, hfirst]
  · rw [getLsbD_rotateRightAcc _ _ (by omega), if_neg (by omega), Nat.sub_add_cancel (by omega)]

/-- Settles O35: F is the bit that the first rotation moved out of ACC's other end, and the ring of thirteen bits
turns back to itself. -/
theorem rotationsInvertAndHaveOrderThirteen : Obligations.RotationsInvertAndHaveOrderThirteen := by
  intro a g
  obtain ⟨low, -⟩ := rotateLeftAcc_bits a g
  obtain ⟨high, -⟩ := rotateRightAcc_bits a g
  exact ⟨rotateRightAcc_rotateLeft a g, (flagF_rotateRightFlg _ _).trans low, rotateLeftAcc_rotateRight a g,
    (flagF_rotateLeftFlg _ _).trans high, turnLeft_iterate_thirteen (a, g)⟩

end Sys2Proof.Machine

namespace Sys2Proof.Machine

/-! ### The rows of the reference table (46_reference_microprogram.md R224) -/

theorem layout_of_onReference {s : State} (hr : OnReference s) : s.cfg.layout = referenceLayout := by
  obtain ⟨hcfg, -⟩ := hr
  rw [hcfg]
  rfl

theorem admitted_of_onReference {s : State} (hr : OnReference s) : configRefusal s.cfg = none := by
  obtain ⟨-, hc⟩ := hr
  exact hc

/-- The table has its row at every index, whatever the image. -/
theorem rowAt_of_onReference {s : State} (hr : OnReference s) {i : Nat} (hi : i < 128) :
    rowAt s.cfg i = some (referenceRow i) := by
  obtain ⟨hcfg, -⟩ := hr
  obtain ⟨w, hw⟩ := exists_rowAt_of_admitted reference_admitted_of_empty_image hi
  rw [referenceRow, hw, hcfg]
  exact hw

/-- The word asserts neither clear-step nor halt and is not the extraction, with a PC increment OR-ed in or not. -/
abbrev OnlyCountsStep (w : ControlWord) : Prop :=
  intersects w (lineClrSc ||| lineHalt) = false ∧ w ≠ wordExtract ∧ w ||| lineIpc ≠ wordExtract

/-- The rows of an opcode's window before its last one do not end the instruction. -/
theorem onlyCountsStep_of_slot :
    ∀ o : Opcode, o ≠ 0 → ∀ k < lastSlot o, OnlyCountsStep (referenceRow (8 * o.toNat + k)) := by decide

/-- The last row of an opcode's window is the clear-step. -/
theorem referenceRow_lastSlot :
    ∀ o : Opcode, o ≠ 0 → referenceRow (8 * o.toNat + lastSlot o) = lineClrSc := by decide

theorem lastSlot_le (o : Opcode) : lastSlot o ≤ 5 := by
  revert o; decide

/-- The word a pulse publishes (45_sequencer.md R200, R203). -/
theorem cw_of_runWord {w w0 : ControlWord} {s t : State} (hs : s.halted = false) (h0 : rowAt s.cfg 0 = some w0)
    (e : runWord w s = .next t) :
    t.cw = if s.workingWord w &&& s.cfg.layout.clr ≠ 0 then w0 else s.workingWord w := by
  obtain ⟨r, hr, hcw, -⟩ := published_of_runWord hs e
  obtain ⟨r', hr', hcw'⟩ := exists_risingEdge s w h0
  cases hr.symm.trans hr'
  exact hcw.trans hcw'

/-- The published word of a row that only counts STEP asserts no halt and is not the extraction. -/
theorem OnlyCountsStep.published {w : ControlWord} {s t : State} (hw : OnlyCountsStep w) (hr : OnReference s)
    (hs : s.halted = false) (e : runWord w s = .next t) : t.halted = false ∧ t.cw ≠ wordExtract := by
  have hl := layout_of_onReference hr
  obtain ⟨hends, hextract, hextract'⟩ := hw
  rw [intersects_or_right, Bool.or_eq_false_iff] at hends
  obtain ⟨hclr, hhlt⟩ := hends
  have hclr' : intersects (s.workingWord w) s.cfg.layout.clr = false := by
    rw [intersects_workingWord_of_disjoint (by rw [hl]; decide), hl]
    exact hclr
  have hhlt' : intersects (s.workingWord w) s.cfg.layout.hlt = false := by
    rw [intersects_workingWord_of_disjoint (by rw [hl]; decide), hl]
    exact hhlt
  have hcw := cw_of_runWord hs (rowAt_of_onReference hr (i := 0) (by decide)) e
  rw [if_neg (not_not.2 (intersects_eq_false_iff.1 hclr'))] at hcw
  obtain ⟨r, hrise, htr, hhalted, -⟩ := published_of_runWord hs e
  refine ⟨by rw [hhalted, risingEdge_halted hs hrise, ← htr, hcw, hhlt'], ?_⟩
  rw [hcw, workingWord_eq]
  obtain h | ⟨h, -⟩ := conditionalIncrements_cases s.cfg.layout (flagF s.flg) (flagZ s.flg) w <;> rw [h]
  · exact hextract
  · rw [hl]; exact hextract'

/-! ### From slot to slot of an opcode's window (46_reference_microprogram.md R224) -/

/-- The reference machine is about to run slot `k` of the window of opcode `o`. -/
def AtSlot (o : Opcode) (k : Nat) (s : State) : Prop :=
  OnReference s ∧ s.halted = false ∧ s.opr = o ∧ s.step.toNat = 3 + k

theorem onReference_of_step {s t : State} (hr : OnReference s) (e : step s = .next t) : OnReference t := by
  rw [OnReference, step_keeps_cfg e]
  exact hr

theorem nextRow_of_atSlot {o : Opcode} (ho : o ≠ 0) {k : Nat} (hk : k ≤ lastSlot o) {s : State}
    (h : AtSlot o k s) : s.nextRow = some (8 * o.toNat + k) := by
  obtain ⟨-, -, rfl, hstep⟩ := h
  have := lastSlot_le s.opr
  rw [nextRow_of_execute (by omega) (by omega) ho, hstep, Nat.add_sub_cancel_left]

theorem rowAt_of_atSlot {o : Opcode} {k : Nat} (hk : k ≤ lastSlot o) {s : State} (h : AtSlot o k s) :
    rowAt s.cfg (8 * o.toNat + k) = some (referenceRow (8 * o.toNat + k)) := by
  obtain ⟨hr, -⟩ := h
  have := lastSlot_le o
  have : o.toNat < 16 := o.isLt
  exact rowAt_of_onReference hr (by omega)

/-- A slot before the last one runs its row and leads to the next slot. -/
theorem step_of_atSlot {o : Opcode} (ho : o ≠ 0) {k : Nat} (hk : k < lastSlot o) {s : State} (h : AtSlot o k s) :
    ∃ t, step s = .next t ∧ runWord (referenceRow (8 * o.toNat + k)) s = .next t ∧ AtSlot o (k + 1) t := by
  have hn := nextRow_of_atSlot ho hk.le h
  have hw := rowAt_of_atSlot hk.le h
  have hrow := onlyCountsStep_of_slot o ho k hk
  obtain ⟨hr, hs, hopr, hstep⟩ := h
  have hl := layout_of_onReference hr
  have hc := admitted_of_onReference hr
  obtain ⟨t, e⟩ := exists_step_next_of_nextRow hc hs hn
  have hrun := runWord_of_step hs hn hw e
  obtain ⟨ht, hextract⟩ := hrow.published hr hs hrun
  obtain ⟨-, -, -, -, -, keepsOpr, -⟩ := runWord_keeps_of_unasserted hl hrun
  obtain ⟨hcount, -⟩ := stepCountsEveryPulse s t _ _ hl ⟨hc, hs⟩ e ht hn hw
  obtain ⟨hends, -⟩ := hrow
  rw [intersects_or_right, Bool.or_eq_false_iff] at hends
  obtain ⟨hclr, -⟩ := hends
  have hclr' : referenceRow (8 * o.toNat + k) &&& 0x080000 = 0 := intersects_eq_false_iff.1 hclr
  rw [if_neg (not_not.2 hclr')] at hcount
  refine ⟨t, e, hrun, onReference_of_step hr e, ht, (keepsOpr hextract).trans hopr, ?_⟩
  have := lastSlot_le o
  rw [hcount, BitVec.toNat_add, hstep]
  exact Nat.mod_eq_of_lt (show 3 + k + 1 < 16 by omega)

/-- The last slot is an instruction boundary: its row asserts clear-step. -/
theorem atBoundary_of_lastSlot {o : Opcode} (ho : o ≠ 0) {s : State} (h : AtSlot o (lastSlot o) s) :
    AtBoundary s := by
  have hn := nextRow_of_atSlot ho le_rfl h
  have hw := rowAt_of_atSlot le_rfl h
  rw [referenceRow_lastSlot o ho] at hw
  obtain ⟨hr, -⟩ := h
  refine .inr ⟨_, lineClrSc, hn, hw, ?_⟩
  rw [layout_of_onReference hr]
  decide

/-- The first slot of opcode 0 halts. -/
theorem step_of_haltSlot {s : State} (h : AtSlot 0 0 s) :
    step s = .next { s with cw := lineHalt, halted := true } := by
  obtain ⟨hr, hs, hopr, hstep⟩ := h
  have hn : s.nextRow = some 4 := by rw [nextRow_of_haltWindow (by omega) (by omega) hopr, hstep]
  rw [step_of_row (admitted_of_onReference hr) hs hn (rowAt_of_onReference hr (by decide))]
  exact runWord_lineHalt (layout_of_onReference hr) hs

/-! ### The window (46_reference_microprogram.md R224) -/

/-- A fetch step leads to the first execute step at most, which is in every window. -/
theorem withinWindow_of_fetchStep {s t : State} (hr : OnReference s) (hs : s.halted = false)
    (hfetch : s.step.toNat < 3) (e : step s = .next t) : WithinWindow t := by
  cases ht : t.halted with
  | true => exact .inl ht
  | false =>
    have hrun : Running s := ⟨admitted_of_onReference hr, hs⟩
    obtain ⟨hcount, -⟩ := stepCountsEveryPulse s t _ _ (layout_of_onReference hr) hrun e ht
      (nextRow_of_fetch hfetch) (rowAt_of_onReference hr (by omega))
    refine .inr (le_trans ?_ (Nat.le_add_right 3 _))
    rw [hcount]
    split
    · decide
    · rw [BitVec.toNat_add]
      exact (Nat.mod_le _ _).trans hfetch

/-- Settles O56: a fetch step, the halt slot, a slot before the last of a window, and the last one, whose pulse is a
first fetch pulse. -/
theorem referenceMachineNeverSticks : Obligations.ReferenceMachineNeverSticks := by
  intro s hr hwithin
  have hc := admitted_of_onReference hr
  suffices h : ∃ t, step s = .next t ∧ WithinWindow t by
    obtain ⟨t, e, ht⟩ := h
    exact ⟨t, e, onReference_of_step hr e, ht⟩
  cases hs : s.halted with
  | true => exact ⟨s, step_of_halted hc hs, hwithin⟩
  | false =>
    have hwindow : s.step.toNat ≤ 3 + lastSlot s.opr := hwithin.resolve_left (by simp [hs])
    obtain hfetch | ⟨k, hk⟩ : s.step.toNat < 3 ∨ ∃ k, s.step.toNat = 3 + k :=
      (lt_or_ge _ _).imp_right Nat.exists_eq_add_of_le
    · obtain ⟨t, e⟩ := exists_step_next_of_nextRow hc hs (nextRow_of_fetch hfetch)
      exact ⟨t, e, withinWindow_of_fetchStep hr hs hfetch e⟩
    have hslot : AtSlot s.opr k s := ⟨hr, hs, rfl, hk⟩
    by_cases ho : s.opr = 0
    · rw [ho] at hslot hwindow
      obtain rfl : k = 0 := by
        have : lastSlot 0 = 0 := rfl
        omega
      exact ⟨_, step_of_haltSlot hslot, .inl rfl⟩
    obtain hlt | rfl : k < lastSlot s.opr ∨ k = lastSlot s.opr := by omega
    · obtain ⟨t, e, -, -, -, hopr, hstep⟩ := step_of_atSlot ho hlt hslot
      exact ⟨t, e, .inr (by rw [hopr, hstep]; omega)⟩
    · refine ⟨_, step_of_boundary hr hs (atBoundary_of_lastSlot ho hslot), .inr ?_⟩
      exact le_trans (by decide : (1#4).toNat ≤ 3) (Nat.le_add_right 3 _)

/-! ### The pulses of one instruction (46_reference_microprogram.md R243) -/

theorem run_add_of_next {n : Nat} {s t : State} (h : Host.Core.run Sys2Proof.core n s = .next t) (m : Nat) :
    Host.Core.run Sys2Proof.core (n + m) s = Host.Core.run Sys2Proof.core m t := by
  induction n generalizing s with
  | zero => cases h; rw [Nat.zero_add]
  | succ n ih =>
    rw [Nat.succ_add]
    simp only [Host.Core.run] at h ⊢
    split at h
    next u hu => exact ih h
    all_goals cases h

/-- The slots up to the last one run their rows one after another, and end at the last slot. -/
theorem run_of_atSlot {o : Opcode} (ho : o ≠ 0) (n : Nat) {k : Nat} (hk : k + n = lastSlot o) {s : State}
    (h : AtSlot o k s) :
    ∃ t, Host.Core.run Sys2Proof.core n s = .next t ∧ runWords (windowRows o k n) s = .next t ∧
      AtSlot o (lastSlot o) t := by
  induction n generalizing k s with
  | zero => exact ⟨s, rfl, rfl, hk ▸ h⟩
  | succ n ih =>
    obtain ⟨u, e, hrow, hu⟩ := step_of_atSlot ho (by omega) h
    obtain ⟨t, hrun, hrows, ht⟩ := ih (by omega) hu
    refine ⟨t, (run_succ_of_next e n).trans hrun, ?_, ht⟩
    rw [windowRows, List.range'_succ, List.map_cons]
    exact runWords_cons_of_next hrow hrows

/-- The fetched state is at the first slot of the fetched opcode. -/
theorem atSlot_fetched {s : State} (hr : OnReference s) (hs : s.halted = false) (w : Word) :
    AtSlot (opcodeField w) 0 (s.fetched w) := ⟨hr, hs, rfl, rfl⟩

/-- The meaning of an instruction word is its fetch and the rows of its opcode. -/
theorem exec_decodeInstructionWord {s : State} (hs : s.halted = false) (w : Word) :
    exec (decodeInstructionWord w) s = runWords (executeRows (opcodeField w)) (s.fetched w) := by
  obtain ⟨-, hencode⟩ := wf_encode_decodeInstructionWord w
  rw [exec_of_encode_iw hencode, runInstruction_of_running hs]

/-- Settles O55: three pulses make the fetched state, and those after it run the rows that the meaning runs. -/
theorem pulsesRunTheInstructionAtPc : Obligations.PulsesRunTheInstructionAtPc := by
  intro s hr hs hb
  have hfetch := run_fetch hr hs hb
  generalize s.mem.read s.pc = w at hfetch ⊢
  have hslot := atSlot_fetched hr hs w
  rw [exec_decodeInstructionWord hs]
  by_cases ho : opcodeField w = 0
  · rw [ho] at hslot
    have hhalt : runWord lineHalt (s.fetched w) = .next { s.fetched w with cw := lineHalt, halted := true } :=
      runWord_lineHalt (layout_of_onReference hr) hs
    refine ⟨{ s.fetched w with cw := lineHalt, halted := true }, ?_, ?_, iff_of_true rfl ho, nofun⟩
    · rw [pulsesOf, if_pos ho, run_add_of_next (m := 1) hfetch, run_succ_of_next (step_of_haltSlot hslot)]
      rfl
    · rw [executeRows, if_pos ho]
      exact runWords_singleton_of_next hhalt
  · obtain ⟨t, hrun, hrows, ht⟩ := run_of_atSlot ho (lastSlot (opcodeField w)) (Nat.zero_add _) hslot
    have ⟨_, hthalted, _⟩ := ht
    refine ⟨t, ?_, ?_, iff_of_false (by simp [hthalted]) ho, fun _ => atBoundary_of_lastSlot ho ht⟩
    · rw [pulsesOf, if_neg ho, run_add_of_next hfetch, hrun]
    · rw [executeRows, if_neg ho, hrows]

end Sys2Proof.Machine
